-- ==== Sys2Proof/Word.lean ====
section
/-! DEFINITION. The word types of the block: bytes of a frame, 16-bit CRC values, 32-bit registers
(00_scope.md R8, R11, R12; 10_state.md R21). -/

namespace Sys2Proof

/-- One byte of a frame or a buffer; bit 0 is the least significant (R8, R12). -/
abbrev Byte := BitVec 8

/-- A 16-bit value of the CRC unit (R8: CRC width = 16 bits). -/
abbrev Half := BitVec 16

/-- A 32-bit register (R21, R46). -/
abbrev Word := BitVec 32

end Sys2Proof
end

