-- ==== Sys2Proof/Config.lean ====
section
/-! DEFINITION. The open parameters of 00_scope.md R9 ("The model takes each as an argument (a configuration
field)"). A value of `Config` is carried in `State.cfg`, so that every statement about all states is a
statement about all bindings; see assumption 1. -/

namespace Sys2Proof

/-- TC_SHORT_ERR (R9, R194): the error PARSE.TC raises when LEN = 0. The two readings R9 allows are the two
constructors, so the constraint of R9 on this parameter holds by construction. -/
inductive TcShortErr where
  | frameWrongLength
  | frameTooShort
deriving DecidableEq, Repr

/-- The parameters of R9, in the order of its table. `ibMax` and `obMax` are naturals; the rest have the
width the table gives. -/
structure Config where
  /-- CRC_POLY: the generator polynomial without the x^16 term. -/
  crcPoly : Half
  /-- CRC_INIT: the accumulator before the first byte. -/
  crcInit : Half
  /-- CRC_REFIN: reflect each input byte. -/
  crcRefIn : Bool
  /-- CRC_REFOUT: reflect the final accumulator. -/
  crcRefOut : Bool
  /-- CRC_XOROUT: xored into the final result. -/
  crcXorOut : Half
  /-- PID_STANDARD: ProtocolId "Standard". -/
  pidStandard : Byte
  /-- MT_DATA: MsgType "Data". -/
  mtData : Byte
  /-- PID_ICD: ProtocolId of an ICD-bearing frame. -/
  pidIcd : Byte
  /-- FLAG_HEADERFILL: ICD Flag value "HeaderFill". -/
  flagHeaderFill : BitVec 1
  /-- TK_TYPE: the ICD Type bit a TK build writes. -/
  tkType : BitVec 1
  /-- TC_SHORT_ERR: the error of PARSE.TC when LEN = 0. -/
  tcShortErr : TcShortErr
  /-- IB_MAX: the largest LEN the environment may present. -/
  ibMax : Nat
  /-- OB_MAX: the capacity of the output buffer in bytes. -/
  obMax : Nat
deriving DecidableEq, Repr

/-- The defaults of R9, with the illustrative binding B0 of R19 for the five parameters R9 gives no default.
DESIGN CHOICE (assumption 1), unsafe if a claim rests on it: no statement of this package does. -/
def Config.default : Config where
  crcPoly := 0x1021
  crcInit := 0xFFFF
  crcRefIn := false
  crcRefOut := false
  crcXorOut := 0x0000
  pidStandard := 0x01
  mtData := 0x02
  pidIcd := 0x03
  flagHeaderFill := 1
  tkType := 1
  tcShortErr := .frameWrongLength
  ibMax := 2 ^ 32 - 1
  obMax := 2 ^ 32 - 1

end Sys2Proof
end

