-- ==== Sys2Proof/Machine/State.lean ====
section
/-! DEFINITION. The whole state of the block as plain data (10_state.md R20 to R49, 45_parser_fsm.md R200 to R202),
the host actions it waits for (00_scope.md R14), the reasons a step can stop, and the state after reset (R48).
A register and a bit that R20 names is a field, or is read from one by the accessors of Machine/Flags.lean:
FRAME_VALID and KIND from `frame`, IB_PRESENT and LEN from `ib`, OB_VALID and OLEN from `ob`. -/

namespace Sys2Proof.Machine

/-! ### Codes -/

/-- The error codes of 60_exceptions.md R260. Codes 6 and 7 are never produced, so they have no constructor. -/
inductive Err where
  | ok
  | nullInput
  | frameTooShort
  | frameWrongLength
  | outOfRange
  | illegalCommand
deriving DecidableEq, Repr

/-- The seven kinds of frame (10_state.md R24; KIND = 0, NONE, is the absence of a held frame). -/
inductive FrameKind where
  | sptp
  | icd
  | tm
  | tk
  | obt
  | hsi
  | tc
deriving DecidableEq, Repr

/-! ### Buffers -/

/-- A byte buffer: `len` bytes at addresses 0 to `len - 1` (R43, R44), as the list of its non-zero bytes by
address. An address below `len` that is not listed holds `unlistedByte`. -/
structure Memory where
  len : Nat
  cells : List Host.Cell
deriving DecidableEq, Repr

/-- What an address of a buffer that is not listed reads as: OB.NEW fills with 0x00 (46_build.md R230), and
every byte of a loaded or built buffer is given (assumption 3). -/
def unlistedByte : Byte := 0

/-- Every listed address is at least `lo` and below `len`, the addresses rise strictly, and no listed byte
equals `unlistedByte`. -/
def cellsWf (len : Nat) : Nat → List Host.Cell → Bool
  | _, [] => true
  | lo, (a, v) :: rest => lo ≤ a && a < len && v != unlistedByte && cellsWf len (a + 1) rest

/-- The canonical form of a buffer: equal buffers are equal data. -/
def Memory.wf (m : Memory) : Bool := cellsWf m.len 0 m.cells

/-! ### Frame registers -/

/-- A payload view: an offset and a length into IB, not a copy (R40). -/
structure View where
  off : Word
  len : Word
deriving DecidableEq, Repr

/-- The SPTP group of frame registers (R34): F_TO, F_PROTOCOL_ID, F_MSG_TYPE, F_FROM. -/
structure SptpRegs where
  toAddr : Byte
  protocolId : Byte
  msgType : Byte
  fromAddr : Byte
deriving DecidableEq, Repr

/-- The ICD group (R35): F_VERSION, F_TYPE, F_FLAG, F_APID, F_SEGMENT, F_COUNTER, F_SIZE. -/
structure IcdRegs where
  version : BitVec 3
  type : BitVec 1
  flag : BitVec 1
  apid : BitVec 11
  segment : BitVec 2
  counter : BitVec 14
  size : BitVec 16
deriving DecidableEq, Repr

/-- The TM/TK group (R36): F_SUBHDR, F_CRC, F_NEEDED_CRC. -/
structure TmTkRegs where
  subhdr : Word
  crc : Half
  neededCrc : Half
deriving DecidableEq, Repr

/-- The OBT group (R37): F_OBT_NORMAL, F_OBT_EXTENDED, F_OBT_VALUE. -/
structure ObtRegs where
  normal : Byte
  extended : Byte
  value : Word
deriving DecidableEq, Repr

/-- The HSI group (R39): F_HSI_RESERVED, F_HSI_FLAG, F_HSI_LINE, F_HSI_SIZE. -/
structure HsiRegs where
  reserved : Byte
  flag : Byte
  line : BitVec 1
  size : BitVec 15
deriving DecidableEq, Repr

/-- One held frame: its kind and every frame register (R33, R42), the Time-code group being F_TC_VALUE (R38). -/
structure Frame where
  kind : FrameKind
  sptp : SptpRegs
  icd : IcdRegs
  tmtk : TmTkRegs
  obt : ObtRegs
  tcValue : Byte
  hsi : HsiRegs
  pay0 : View
  pay1 : View
  pay2 : View
deriving DecidableEq, Repr

/-- A frame of the kind with every frame register 0: where a commit starts (42_parse_sptp_icd.md R155). -/
def Frame.blank (k : FrameKind) : Frame where
  kind := k
  sptp := ⟨0, 0, 0, 0⟩
  icd := ⟨0, 0, 0, 0, 0, 0, 0⟩
  tmtk := ⟨0, 0, 0⟩
  obt := ⟨0, 0, 0⟩
  tcValue := 0
  hsi := ⟨0, 0, 0, 0⟩
  pay0 := ⟨0, 0⟩
  pay1 := ⟨0, 0⟩
  pay2 := ⟨0, 0⟩

/-! ### Hidden registers -/

/-- The parser's states PSTATE (45_parser_fsm.md R200), in the order of their encodings 0 to 11. -/
inductive PState where
  | idle
  | check
  | sptp
  | icd
  | sub
  | pay
  | crc
  | obt
  | hsi
  | tc
  | commit
  | fail
deriving DecidableEq, Repr

/-- The hidden registers (R45, R201, R202). PKIND is three bits whose eight values are no kind and the seven
kinds; SH is sixteen bytes. -/
structure Hidden where
  pstate : PState
  pkind : Option FrameKind
  perr : Err
  pos : Word
  sh : List Byte
  crcWork : Half
deriving DecidableEq, Repr

/-! ### The host -/

/-- What the host may do between commands (00_scope.md R14). A register is named by its byte offset
(10_state.md R46); a write to CMD, offset 0, issues a command (R22). -/
inductive HostAction where
  /-- HOST.LOAD(bytes). -/
  | load (bytes : List Byte)
  /-- HOST.LOAD(absent). -/
  | loadAbsent
  /-- HOST.WR(register at this offset, value). -/
  | wr (offset : Nat) (value : Word)
  /-- HOST.RD(register at this offset). -/
  | rd (offset : Nat)
  /-- HOST.RDOB(i). -/
  | rdob (index : Nat)
  /-- HOST.RESET. -/
  | reset
deriving DecidableEq, Repr

/-- What a read gives the host back. -/
inductive HostReply where
  /-- The 32-bit word of a HOST.RD. -/
  | word (value : Word)
  /-- The byte of a HOST.RDOB. -/
  | byte (value : Byte)
deriving DecidableEq, Repr

/-! ### How a step can stop -/

/-- The reasons the machine stops with a fault. There is none: every error of the block is a code in
STATUS.ERR after which "the machine keeps stepping" (60_exceptions.md R272, R274; 70_reset_and_hazards.md R296),
so this type has no constructor and no step can fault. Safe. -/
inductive Fault where
deriving DecidableEq, Repr

/-- The reasons a step is refused. -/
inductive Refusal where
  /-- Raised by no arm of `exec`: every command of the table has its meaning. The host's interface asks for the
  constructor. Safe. -/
  | notModelled (mnemonic : String)
  /-- Raised by the host action HOST.LOAD of more than IB_MAX bytes, which is not a legal host action (R14,
  93_implementation_defined.md U20: "refuse"). No command raises it. Safe. -/
  | loadTooLong
deriving DecidableEq, Repr

/-! ### The state -/

/-- The state of the block and what it is connected to. `cfg`, `pending` and `replies` are the model's own
fields: the parameters (R9), the host's actions still to come (R14), and what the host has been told. -/
structure State where
  /-- The binding of the parameters (R9). No step changes it. -/
  cfg : Config
  /-- ARG0 (R21). -/
  arg0 : Word
  /-- ARG1 (R21). -/
  arg1 : Word
  /-- ARG2 (R21). -/
  arg2 : Word
  /-- ARG3 (R21), read by no command (R83). -/
  arg3 : Word
  /-- RES (R21). -/
  res : Word
  /-- STATUS.ERR (R24, R25). -/
  err : Err
  /-- STATUS.STICKY (R24, R26). -/
  sticky : Bool
  /-- STATUS.BUSY (R24, R30). -/
  busy : Bool
  /-- CRC_ACC, the raw accumulator (R31). -/
  crcAcc : Half
  /-- The held frame, none when FRAME_VALID = 0 (R27, R33, R41). -/
  frame : Option Frame
  /-- OB, none when OB_VALID = 0 (R28, R44). -/
  ob : Option Memory
  /-- IB, none when IB_PRESENT = 0 (R43). -/
  ib : Option Memory
  /-- The hidden registers (R45). -/
  hid : Hidden
  /-- The host actions not yet performed, the next one first. -/
  pending : List HostAction
  /-- What reads have given the host, the oldest first. -/
  replies : List HostReply
deriving DecidableEq, Repr

/-- The hidden registers after reset: PSTATE = P_IDLE (R48). The other five are unspecified there (R291); the
values named here are a DESIGN CHOICE (assumption 2) that no statement rests on. -/
def Hidden.reset : Hidden where
  pstate := .idle
  pkind := none
  perr := .ok
  pos := 0
  sh := List.replicate 16 0
  crcWork := 0

/-- The state after HOST.RESET with a given binding of the parameters (R48, R290). -/
def State.resetWith (c : Config) : State where
  cfg := c
  arg0 := 0
  arg1 := 0
  arg2 := 0
  arg3 := 0
  res := 0
  err := .ok
  sticky := false
  busy := false
  crcAcc := c.crcInit
  frame := none
  ob := none
  ib := none
  hid := Hidden.reset
  pending := []
  replies := []

/-- The machine right after reset (R48), with the default binding and no host action pending. -/
def State.reset : State := State.resetWith Config.default

end Sys2Proof.Machine
end

