-- ==== Sys2Proof/Syntax.lean ====
section
/-! DEFINITION. The block's commands: one constructor per row of spec/opcode_table.json (30_encoding.md R81).
A command word holds the opcode alone (R80): operands are read from ARG0 to ARG3 when the command runs, so no
constructor has an argument. -/

namespace Sys2Proof

/-- The twenty-two assigned commands of R81, in the table's order. -/
inductive Instr where
  /-- 0x00 NOP (R250). -/
  | nop
  /-- 0x01 CLR (R251). -/
  | clr
  /-- 0x10 CRC.CLR (R104). -/
  | crcClr
  /-- 0x11 CRC.UPD (R105). -/
  | crcUpd
  /-- 0x12 CRC.RD (R106). -/
  | crcRd
  /-- 0x13 CRC.RANGE (R107). -/
  | crcRange
  /-- 0x20 FX.BE (R127). -/
  | fxBe
  /-- 0x21 FX.REV32 (R128). -/
  | fxRev32
  /-- 0x22 FX.BITS (R129). -/
  | fxBits
  /-- 0x28 PK.BE (R131). -/
  | pkBe
  /-- 0x29 PK.REV32 (R132). -/
  | pkRev32
  /-- 0x2A PK.BITS (R133). -/
  | pkBits
  /-- 0x30 PARSE.SPTP (R150). -/
  | parseSptp
  /-- 0x31 PARSE.ICD (R152). -/
  | parseIcd
  /-- 0x32 PARSE.TM (R170). -/
  | parseTm
  /-- 0x33 PARSE.TK (R171). -/
  | parseTk
  /-- 0x34 PARSE.OBT (R177). -/
  | parseObt
  /-- 0x35 PARSE.HSI (R190). -/
  | parseHsi
  /-- 0x36 PARSE.TC (R193). -/
  | parseTc
  /-- 0x40 BUILD.SPTP (R232). -/
  | buildSptp
  /-- 0x41 BUILD.TK (R234). -/
  | buildTk
  /-- 0x48 OB.NEW (R230). -/
  | obNew
deriving DecidableEq, Repr

end Sys2Proof
end

