-- ==== Sys2Proof/Decode.lean ====
section
/-! DEFINITION. The opcode map of 30_encoding.md R81 as the table of rows that R91 describes, the decoder (total,
refusing by name), and the encoder. -/

namespace Sys2Proof

/-- One row of the opcode table (R91): a row matches an opcode when `(cmd &&& mask) = value`. -/
structure OpcodeRow where
  value : Byte
  mask : Byte
  instr : Instr
deriving DecidableEq, Repr

/-- Why the decoder gives no command. -/
inductive Reject where
  /-- There is no opcode byte to look at. -/
  | noOpcode
  /-- The opcode is one of the 234 that R87 reserves. -/
  | reserved (opcode : Byte)
deriving DecidableEq, Repr

/-- The opcode map (R81): `match` is the value of CMD[7:0] and `mask` is 0xFF for every row. -/
def opcodeTable : List OpcodeRow :=
  [⟨0x00, 0xFF, .nop⟩, ⟨0x01, 0xFF, .clr⟩] ++
  [⟨0x10, 0xFF, .crcClr⟩, ⟨0x11, 0xFF, .crcUpd⟩, ⟨0x12, 0xFF, .crcRd⟩, ⟨0x13, 0xFF, .crcRange⟩] ++
  [⟨0x20, 0xFF, .fxBe⟩, ⟨0x21, 0xFF, .fxRev32⟩, ⟨0x22, 0xFF, .fxBits⟩] ++
  [⟨0x28, 0xFF, .pkBe⟩, ⟨0x29, 0xFF, .pkRev32⟩, ⟨0x2A, 0xFF, .pkBits⟩] ++
  [⟨0x30, 0xFF, .parseSptp⟩, ⟨0x31, 0xFF, .parseIcd⟩, ⟨0x32, 0xFF, .parseTm⟩, ⟨0x33, 0xFF, .parseTk⟩] ++
  [⟨0x34, 0xFF, .parseObt⟩, ⟨0x35, 0xFF, .parseHsi⟩, ⟨0x36, 0xFF, .parseTc⟩] ++
  [⟨0x40, 0xFF, .buildSptp⟩, ⟨0x41, 0xFF, .buildTk⟩, ⟨0x48, 0xFF, .obNew⟩]

/-- The row's test (R91). -/
def OpcodeRow.hits (r : OpcodeRow) (c : Byte) : Bool := (c &&& r.mask) == r.value

/-- Decode one opcode (R80, R91): look it up; if no row matches, the command is reserved (R87). -/
def decodeOpcode (c : Byte) : Except Reject Instr :=
  match opcodeTable.find? (fun r => r.hits c) with
  | some r => .ok r.instr
  | none => .error (.reserved c)

/-- Decode the command at the head of a list of bytes, with the bytes after it. There is one command length
and no prefix (R80). -/
def decode : List Byte → Except Reject (Instr × List Byte)
  | [] => .error .noOpcode
  | c :: rest =>
    match decodeOpcode c with
    | .ok i => .ok (i, rest)
    | .error e => .error e

/-- The opcode of a command, from the encoding column of R81's table. -/
def encodeOpcode : Instr → Byte
  | .nop => 0x00
  | .clr => 0x01
  | .crcClr => 0x10
  | .crcUpd => 0x11
  | .crcRd => 0x12
  | .crcRange => 0x13
  | .fxBe => 0x20
  | .fxRev32 => 0x21
  | .fxBits => 0x22
  | .pkBe => 0x28
  | .pkRev32 => 0x29
  | .pkBits => 0x2A
  | .parseSptp => 0x30
  | .parseIcd => 0x31
  | .parseTm => 0x32
  | .parseTk => 0x33
  | .parseObt => 0x34
  | .parseHsi => 0x35
  | .parseTc => 0x36
  | .buildSptp => 0x40
  | .buildTk => 0x41
  | .obNew => 0x48

/-- The words of a command: its one opcode byte (R80). -/
def encode (i : Instr) : List Byte := [encodeOpcode i]

/-- The bytes of a number of `n` bytes, the least significant first: how a table row's bits are laid out. -/
def wordBytes (w : Nat) : Nat → List Byte
  | 0 => []
  | n + 1 => BitVec.ofNat 8 w :: wordBytes (w / 256) n

/-- The command the decoder reads from a row's bits (bit 0 the least significant of the one opcode byte). -/
def decodeTableWord (nbits w : Nat) : Option Instr :=
  match decode (wordBytes (w % 2 ^ nbits) ((nbits + 7) / 8)) with
  | .ok (i, _) => some i
  | .error _ => none

end Sys2Proof
end

