-- ==== Sys2Proof/Machine/CrcUnit.lean ====
section
/-! DEFINITION. The CRC-16 unit (40_crc.md R101, R102) over the five CRC parameters of 00_scope.md R9. -/

namespace Sys2Proof.Machine

/-- One of the eight shifts of R101: the top bit decides whether the polynomial is added. -/
def crcShift (poly acc : Half) : Half :=
  if acc.getLsbD 15 then (acc <<< 1) ^^^ poly else acc <<< 1

/-- `n` shifts. -/
def crcShifts (poly : Half) : Nat → Half → Half
  | 0, acc => acc
  | n + 1, acc => crcShifts poly n (crcShift poly acc)

/-- The input byte as it enters: reflected if CRC_REFIN says so (R101: reflect8(b)[i] = b[7-i]). -/
def crcInByte (c : Config) (b : Byte) : Byte := if c.crcRefIn then b.reverse else b

/-- crc_update (R101): the byte into the high byte of the accumulator, then eight shifts. -/
def crcUpdate (c : Config) (acc : Half) (b : Byte) : Half :=
  crcShifts c.crcPoly 8 (acc ^^^ ((crcInByte c b).setWidth 16 <<< 8))

/-- crc_final (R101): the reflection of the output if CRC_REFOUT says so, then the final xor. -/
def crcFinal (c : Config) (acc : Half) : Half :=
  (if c.crcRefOut then acc.reverse else acc) ^^^ c.crcXorOut

/-- The accumulator after a list of bytes, fed lowest offset first (R102). -/
def crcFold (c : Config) (acc : Half) (bytes : List Byte) : Half := bytes.foldl (crcUpdate c) acc

/-- crc16 (R102). -/
def crc16 (c : Config) (bytes : List Byte) : Half := crcFinal c (crcFold c c.crcInit bytes)

end Sys2Proof.Machine
end

