-- ==== Sys2Proof/Machine/Fields.lean ====
section
/-! DEFINITION. The functions of the field extractor and packer (41_field_extract.md R120 to R125, R136), which the
FX and PK commands and every PARSE and BUILD rule use. -/

namespace Sys2Proof.Machine

/-- Big-endian composition: the first byte is the most significant (R120). -/
def be (bytes : List Byte) : Nat := bytes.foldl (fun acc b => acc * 256 + b.toNat) 0

/-- Reversed composition: the first byte is the least significant (R121). -/
def rev : List Byte → Nat
  | [] => 0
  | b :: rest => b.toNat + 256 * rev rest

/-- The `w` bits of `v` from bit `lsb` up (R122). -/
def slice (v lsb w : Nat) : Nat := v / 2 ^ lsb % 2 ^ w

/-- The inverse of `be`: `n` bytes, the most significant first; higher bits are dropped (R123). -/
def beBytes (v n : Nat) : List Byte :=
  (List.range n).map fun i => BitVec.ofNat 8 (v % 2 ^ (8 * n) / 2 ^ (8 * (n - 1 - i)))

/-- The inverse of `rev`: `n` bytes, the least significant first (R124). -/
def revBytes (v n : Nat) : List Byte :=
  (List.range n).map fun i => BitVec.ofNat 8 (v % 2 ^ (8 * n) / 2 ^ (8 * i))

/-- The mask of `w` low bits: the m = 2^w - 1 of R125. -/
def fieldMask (w : Nat) : Word := BitVec.ofNat 32 (2 ^ w - 1)

/-- The inverse of `slice`: `old` with the field of `w` bits at `lsb` replaced by the low bits of `v` (R125).
A group has at most four bytes (R86), so 32 bits hold it. -/
def insertField (old : Word) (lsb w : Nat) (v : Word) : Word :=
  (old &&& ~~~(fieldMask w <<< lsb)) ||| ((v &&& fieldMask w) <<< lsb)

/-- The big-endian value of two bytes as a 16-bit group (R136). -/
def group16 (hi lo : Byte) : Nat := be [hi, lo]

/-- The ICD fields of six header bytes (R136; the bit positions are those of 42_parse_sptp_icd.md R153). Only
lists of six bytes are ever given to it; missing bytes count as 0. -/
def unpackIcd (h : List Byte) : IcdRegs where
  version := BitVec.ofNat 3 (slice (group16 (h.getD 0 0) (h.getD 1 0)) 13 3)
  type := BitVec.ofNat 1 (slice (group16 (h.getD 0 0) (h.getD 1 0)) 12 1)
  flag := BitVec.ofNat 1 (slice (group16 (h.getD 0 0) (h.getD 1 0)) 11 1)
  apid := BitVec.ofNat 11 (slice (group16 (h.getD 0 0) (h.getD 1 0)) 0 11)
  segment := BitVec.ofNat 2 (slice (group16 (h.getD 2 0) (h.getD 3 0)) 14 2)
  counter := BitVec.ofNat 14 (slice (group16 (h.getD 2 0) (h.getD 3 0)) 0 14)
  size := BitVec.ofNat 16 (group16 (h.getD 4 0) (h.getD 5 0))

/-- The first 16-bit group of a packed ICD header (R136): Version, Type, Flag, Apid. -/
def icdGroup0 (r : IcdRegs) : Nat :=
  r.version.toNat * 2 ^ 13 + r.type.toNat * 2 ^ 12 + r.flag.toNat * 2 ^ 11 + r.apid.toNat

/-- The second 16-bit group (R136): Segment, Counter. -/
def icdGroup1 (r : IcdRegs) : Nat := r.segment.toNat * 2 ^ 14 + r.counter.toNat

/-- The six header bytes of the ICD fields (R136). Each field already has its width, so the reductions that
R136 writes (Version mod 8 and so on) are the types'. -/
def packIcd (r : IcdRegs) : List Byte :=
  beBytes (icdGroup0 r) 2 ++ beBytes (icdGroup1 r) 2 ++ beBytes r.size.toNat 2

end Sys2Proof.Machine
end

