-- ==== Sys2Proof/Machine/Operands.lean ====
section
/-! DEFINITION. The operand formats of 30_encoding.md R83 to R86: which bits of which ARG register a command
reads, and the legality of a field descriptor. Every operand is unsigned and higher bits are ignored (R84). -/

namespace Sys2Proof.Machine

/-- byte = ARG0[7:0] (format B). -/
def State.opByte (s : State) : Byte := s.arg0.extractLsb' 0 8

/-- off = ARG0[31:0] (formats R, O, F, P, Q). -/
def State.opOff (s : State) : Nat := s.arg0.toNat

/-- len = ARG1[31:0] (format R). -/
def State.opRangeLen (s : State) : Nat := s.arg1.toNat

/-- len = ARG0[31:0] (format L). -/
def State.opNewLen (s : State) : Nat := s.arg0.toNat

/-- n = ARG1[2:0], the bytes of a field descriptor's group (R85). -/
def State.opN (s : State) : Nat := (s.arg1.extractLsb' 0 3).toNat

/-- lsb = ARG1[12:8], the descriptor's lowest bit (R85). -/
def State.opLsb (s : State) : Nat := (s.arg1.extractLsb' 8 5).toNat

/-- w = ARG1[21:16], the descriptor's width (R85). -/
def State.opW (s : State) : Nat := (s.arg1.extractLsb' 16 6).toNat

/-- value = ARG2[31:0] (formats P, Q). -/
def State.opValue (s : State) : Word := s.arg2

/-- to = ARG0[7:0] (format A). -/
def State.opTo (s : State) : Byte := s.arg0.extractLsb' 0 8

/-- from = ARG1[7:0] (format A). -/
def State.opFrom (s : State) : Byte := s.arg1.extractLsb' 0 8

/-- apid = ARG2[10:0] (format A, BUILD.TK). -/
def State.opApid (s : State) : BitVec 11 := s.arg2.extractLsb' 0 11

/-- The legality of a byte group: 1 <= n <= 4 (R86, FX.BE and PK.BE). -/
def groupLegal (n : Nat) : Bool := 1 ≤ n && n ≤ 4

/-- The legality of a field descriptor: 1 <= n <= 4, 1 <= w <= 32, lsb + w <= 8n (R86, FX.BITS and PK.BITS). -/
def fieldLegal (n lsb w : Nat) : Bool := groupLegal n && 1 ≤ w && w ≤ 32 && lsb + w ≤ 8 * n

end Sys2Proof.Machine
end

