-- ==== Sys2Proof/Machine/Ops.lean ====
section
/-! DEFINITION. The shared operations: reading, writing and making buffers (20_memory.md R62, R64), ending a
command with success or with an error (60_exceptions.md R266), and the frames that a parse commits
(42_parse_sptp_icd.md R155). -/

namespace Sys2Proof.Machine

/-! ### Buffers -/

/-- The byte at an address: a listed one, or `unlistedByte`. The list rises, so the search ends at the first
larger address. -/
def cellGet : List Host.Cell → Nat → Byte
  | [], _ => unlistedByte
  | (b, v) :: rest, a => if a < b then unlistedByte else if b = a then v else cellGet rest a

/-- The cells from an address up. -/
def cellSkip : List Host.Cell → Nat → List Host.Cell
  | [], _ => []
  | (b, v) :: rest, a => if b < a then cellSkip rest a else (b, v) :: rest

/-- The `n` bytes from an address up. -/
def cellRange : List Host.Cell → Nat → Nat → List Byte
  | _, _, 0 => []
  | cells, a, n + 1 => cellGet (cellSkip cells a) a :: cellRange (cellSkip cells a) (a + 1) n

/-- Write one byte, keeping the canonical form: writing `unlistedByte` takes the entry out. -/
def cellSet : List Host.Cell → Nat → Byte → List Host.Cell
  | [], a, v => if v = unlistedByte then [] else [(a, v)]
  | (b, w) :: rest, a, v =>
    if a < b then (if v = unlistedByte then (b, w) :: rest else (a, v) :: (b, w) :: rest)
    else if b = a then (if v = unlistedByte then rest else (a, v) :: rest)
    else (b, w) :: cellSet rest a v

/-- Write a list of bytes from an address up. -/
def cellSetAll : List Host.Cell → Nat → List Byte → List Host.Cell
  | cells, _, [] => cells
  | cells, a, v :: rest => cellSetAll (cellSet cells a v) (a + 1) rest

/-- The cells of a list of bytes laid out from an address up. -/
def cellsOf : Nat → List Byte → List Host.Cell
  | _, [] => []
  | a, v :: rest => if v = unlistedByte then cellsOf (a + 1) rest else (a, v) :: cellsOf (a + 1) rest

/-- The byte of a buffer at an address. -/
def Memory.byte (m : Memory) (a : Nat) : Byte := cellGet m.cells a

/-- MemRead (R62): the bytes at `a`, `a + 1`, up to `a + n - 1`, the lowest address first. Every rule checks
`a + n ≤ m.len` before it reads. -/
def Memory.read (m : Memory) (a n : Nat) : List Byte := cellRange m.cells a n

/-- MemWrite (R64): replace the bytes from `a` up; the length does not change. Every rule checks
`a + bytes.length ≤ m.len` before it writes. -/
def Memory.write (m : Memory) (a : Nat) (bytes : List Byte) : Memory :=
  { m with cells := cellSetAll m.cells a bytes }

/-- A buffer that holds a list of bytes. -/
def Memory.ofBytes (bytes : List Byte) : Memory := ⟨bytes.length, cellsOf 0 bytes⟩

/-- A buffer of `n` bytes, each 0x00 (46_build.md R230). -/
def Memory.zeros (n : Nat) : Memory := ⟨n, []⟩

/-- The whole contents of a buffer, in stream order. -/
def Memory.toBytes (m : Memory) : List Byte := m.read 0 m.len

/-! ### How a command ends -/

/-- The destination groups of R266: what a failing command clears. -/
inductive DestGroup where
  /-- Nothing: reserved opcodes and the PK commands. -/
  | nothing
  /-- RES: CRC.RANGE and the FX commands. -/
  | result
  /-- Every frame register, FRAME_VALID and KIND: the PARSE commands. -/
  | frameRegs
  /-- OB, OLEN and OB_VALID: the BUILD commands and OB.NEW. -/
  | outputBuffer
deriving DecidableEq, Repr

/-- Clear a destination group (R266). -/
def clearGroup (d : DestGroup) (s : State) : State :=
  match d with
  | .nothing => s
  | .result => { s with res := 0 }
  | .frameRegs => { s with frame := none }
  | .outputBuffer => { s with ob := none }

/-- `raise c` (00_scope.md R15, R266): the block's one way to take an error. ERR holds the code, STICKY is set,
the command's destination group is cleared, and nothing else changes. Control goes nowhere: there is no handler,
no saved register, no mode, and so nothing to return from (R271); the next command runs normally. -/
def raiseErr (d : DestGroup) (c : Err) (s : State) : State :=
  { clearGroup d s with err := c, sticky := true }

/-- A command that succeeds writes 0 to ERR and leaves STICKY as it was (10_state.md R25, R26). -/
def succeed (s : State) : State := { s with err := .ok }

/-! ### The frames that a parse commits

Each function gives the assignments of one PARSE rule on top of a blank frame (R155), from the captured bytes and
the length of the buffer; both the atomic commands and the parser's P_COMMIT (45_parser_fsm.md R213) use it. -/

/-- The SPTP group from the four header bytes (R150). -/
def sptpRegs (h : List Byte) : SptpRegs := ⟨h.getD 0 0, h.getD 1 0, h.getD 2 0, h.getD 3 0⟩

/-- The view of everything from an offset to the end of a buffer of `len` bytes (R40, R42). -/
def viewFrom (off len : Nat) : View := ⟨BitVec.ofNat 32 off, BitVec.ofNat 32 (len - off)⟩

/-- PARSE.SPTP's assignments (R150). -/
def sptpFrame (h : List Byte) (len : Nat) : Frame :=
  { Frame.blank .sptp with sptp := sptpRegs h, pay0 := viewFrom 4 len }

/-- PARSE.ICD's assignments (R152). -/
def icdFrame (h i : List Byte) (len : Nat) : Frame :=
  { Frame.blank .icd with
    sptp := sptpRegs h, icd := unpackIcd i, pay0 := viewFrom 4 len, pay1 := viewFrom 10 len }

/-- PARSE.TM's and PARSE.TK's assignments (43_parse_tm_tk_obt.md R170, R171), which differ only in the kind.
PAY2 is the declared Size, not clamped (R174). -/
def tmtkFrame (k : FrameKind) (h i sub trailer : List Byte) (needed : Half) (len : Nat) : Frame :=
  { Frame.blank k with
    sptp := sptpRegs h, icd := unpackIcd i,
    tmtk := ⟨BitVec.ofNat 32 (be sub), BitVec.ofNat 16 (be trailer), needed⟩,
    pay0 := viewFrom 4 len, pay1 := viewFrom 10 len,
    pay2 := ⟨14, (unpackIcd i).size.setWidth 32⟩ }

/-- PARSE.OBT's assignments (R177), the record's Value read in reversed byte order (20_memory.md R66). -/
def obtFrame (h i o : List Byte) : Frame :=
  { Frame.blank .obt with
    sptp := sptpRegs h, icd := unpackIcd i,
    obt := ⟨o.getD 0 0, o.getD 1 0, BitVec.ofNat 32 (rev (o.drop 2))⟩,
    pay0 := ⟨4, 12⟩, pay1 := ⟨10, 6⟩ }

/-- PARSE.HSI's assignments (44_parse_hsi_timecode.md R190). -/
def hsiFrame (h : List Byte) (len : Nat) : Frame :=
  { Frame.blank .hsi with
    hsi := ⟨h.getD 0 0, h.getD 1 0,
      BitVec.ofNat 1 (slice (be [h.getD 2 0, h.getD 3 0]) 15 1),
      BitVec.ofNat 15 (slice (be [h.getD 2 0, h.getD 3 0]) 0 15)⟩,
    pay0 := viewFrom 4 len }

/-- PARSE.TC's assignments (R193). -/
def tcFrame (h : List Byte) : Frame :=
  { Frame.blank .tc with tcValue := h.getD 0 0, pay0 := ⟨0, 1⟩ }

/-! ### How a PARSE command ends -/

/-- SH with bytes captured in its slots from 0 up (45_parser_fsm.md R201). -/
def captureSlots (bytes sh : List Byte) : List Byte := bytes ++ sh.drop bytes.length

/-- The hidden registers as a successful parse leaves them (R203 to R213): PKIND the kind, POS the number of
bytes consumed, SH the captured bytes, CRC_WORK the accumulator, PSTATE back in P_IDLE. -/
def hiddenAfterCommit (k : FrameKind) (consumed : Nat) (captured : List Byte) (crc : Half) (h : Hidden) :
    Hidden :=
  { h with
    pstate := .idle, pkind := some k, pos := BitVec.ofNat 32 consumed, sh := captureSlots captured h.sh,
    crcWork := crc }

/-- The hidden registers as a failing parse leaves them (R203, R204, R214): no byte was consumed. -/
def hiddenAfterFail (k : FrameKind) (e : Err) (h : Hidden) : Hidden :=
  { h with pstate := .idle, pkind := some k, perr := e, pos := 0 }

/-- `commit` (R155): the frame held before is replaced by the new one in one update, and ERR <- 0. -/
def commitFrame (f : Frame) (hid : Hidden) (s : State) : State :=
  succeed { s with frame := some f, busy := false, hid := hid }

/-- A PARSE command that raises (R155, R266): the frame held before is gone and there is no new one. -/
def failParse (k : FrameKind) (e : Err) (s : State) : State :=
  raiseErr .frameRegs e { s with busy := false, hid := hiddenAfterFail k e s.hid }

end Sys2Proof.Machine
end

