-- ==== Sys2Proof/Machine/Build.lean ====
section
/-! DEFINITION. The header assembler (46_build.md): OB.NEW, BUILD.SPTP, BUILD.TK. The payload of both BUILD commands
is the whole input buffer (R231). -/

namespace Sys2Proof.Machine

/-- OB.NEW (R230): a buffer of len zero bytes. -/
def execObNew (s : State) : Host.Outcome State Fault Refusal :=
  if s.opNewLen > s.cfg.obMax then .next (raiseErr .outputBuffer .outOfRange s)
  else .next (succeed { s with ob := some (Memory.zeros s.opNewLen) })

/-- The bytes BUILD.SPTP writes before the payload (R232). -/
def sptpHeader (c : Config) (toAddr fromAddr : Byte) : List Byte := [toAddr, c.pidStandard, c.mtData, fromAddr]

/-- BUILD.SPTP (R232). -/
def execBuildSptp (s : State) : Host.Outcome State Fault Refusal :=
  match s.ib with
  | none => .next (raiseErr .outputBuffer .nullInput s)
  | some m =>
    if m.len + 4 > s.cfg.obMax then .next (raiseErr .outputBuffer .outOfRange s)
    else
      .next (succeed { s with
        ob := some (Memory.ofBytes (sptpHeader s.cfg s.opTo s.opFrom ++ m.read 0 m.len)) })

/-- The ICD fields of a built TK frame (R234, R235). -/
def tkIcd (c : Config) (apid : BitVec 11) (len : Nat) : IcdRegs :=
  ⟨0, c.tkType, c.flagHeaderFill, apid, 3, 0, BitVec.ofNat 16 len⟩

/-- The bytes a TK build's CRC covers (R234): the ICD header, then the payload. There is no sub-header (R236). -/
def tkBody (c : Config) (apid : BitVec 11) (payload : List Byte) : List Byte :=
  packIcd (tkIcd c apid payload.length) ++ payload

/-- The frame BUILD.TK writes (R234): SPTP header, body, and the CRC big-endian. -/
def tkBytes (c : Config) (toAddr fromAddr : Byte) (apid : BitVec 11) (payload : List Byte) : List Byte :=
  [toAddr, c.pidIcd, 0x00, fromAddr] ++ tkBody c apid payload ++ beBytes (crc16 c (tkBody c apid payload)).toNat 2

/-- BUILD.TK (R234): Size has 16 bits, so a longer payload is refused (R238), before the test of OB_MAX (R268).
The CRC is computed in the hidden CRC_WORK (R31). -/
def execBuildTk (s : State) : Host.Outcome State Fault Refusal :=
  match s.ib with
  | none => .next (raiseErr .outputBuffer .nullInput s)
  | some m =>
    if m.len > 65535 then .next (raiseErr .outputBuffer .outOfRange s)
    else if m.len + 12 > s.cfg.obMax then .next (raiseErr .outputBuffer .outOfRange s)
    else
      .next (succeed { s with
        ob := some (Memory.ofBytes (tkBytes s.cfg s.opTo s.opFrom s.opApid (m.read 0 m.len))),
        hid := { s.hid with
          crcWork := crcFold s.cfg s.cfg.crcInit (tkBody s.cfg s.opApid (m.read 0 m.len)) } })

end Sys2Proof.Machine
end

