-- ==== Sys2Proof/Machine/Crc.lean ====
section
/-! DEFINITION. The CRC commands (40_crc.md): CRC.CLR, CRC.UPD, CRC.RD, CRC.RANGE. -/

namespace Sys2Proof.Machine

/-- CRC.CLR (R104): CRC_ACC <- CRC_INIT. -/
def execCrcClr (s : State) : Host.Outcome State Fault Refusal :=
  .next (succeed { s with crcAcc := s.cfg.crcInit })

/-- CRC.UPD (R105): one byte, ARG0[7:0], into CRC_ACC. It reads no buffer. -/
def execCrcUpd (s : State) : Host.Outcome State Fault Refusal :=
  .next (succeed { s with crcAcc := crcUpdate s.cfg s.crcAcc s.opByte })

/-- CRC.RD (R106): RES <- crc_final(CRC_ACC); CRC_ACC stays. -/
def execCrcRd (s : State) : Host.Outcome State Fault Refusal :=
  .next (succeed { s with res := (crcFinal s.cfg s.crcAcc).setWidth 32 })

/-- CRC.RANGE (R107): the CRC of IB[off .. off+len), computed in the hidden CRC_WORK; CRC_ACC stays (R31). -/
def execCrcRange (s : State) : Host.Outcome State Fault Refusal :=
  match s.ib with
  | none => .next (raiseErr .result .nullInput s)
  | some m =>
    if s.opOff + s.opRangeLen > m.len then .next (raiseErr .result .outOfRange s)
    else
      .next (succeed { s with
        res := (crc16 s.cfg (m.read s.opOff s.opRangeLen)).setWidth 32,
        hid := { s.hid with crcWork := crcFold s.cfg s.cfg.crcInit (m.read s.opOff s.opRangeLen) } })

end Sys2Proof.Machine
end

