-- ==== Sys2Proof/Machine/Extract.lean ====
section
/-! DEFINITION. The extract commands (41_field_extract.md): FX.BE, FX.REV32, FX.BITS. -/

namespace Sys2Proof.Machine

/-- The shared end of the extract commands: presence, then bounds, then RES <- the value of the `n` bytes at
`off` (60_exceptions.md R268, steps 3 and 4). -/
def extractWith (off n : Nat) (value : List Byte → Nat) (s : State) : Host.Outcome State Fault Refusal :=
  match s.ib with
  | none => .next (raiseErr .result .nullInput s)
  | some m =>
    if off + n > m.len then .next (raiseErr .result .outOfRange s)
    else .next (succeed { s with res := BitVec.ofNat 32 (value (m.read off n)) })

/-- FX.BE (R127): RES <- the big-endian value of n bytes. -/
def execFxBe (s : State) : Host.Outcome State Fault Refusal :=
  if groupLegal s.opN then extractWith s.opOff s.opN be s
  else .next (raiseErr .result .illegalCommand s)

/-- FX.REV32 (R128): RES <- the reversed value of four bytes. -/
def execFxRev32 (s : State) : Host.Outcome State Fault Refusal := extractWith s.opOff 4 rev s

/-- FX.BITS (R129): RES <- a field of the big-endian value of n bytes. -/
def execFxBits (s : State) : Host.Outcome State Fault Refusal :=
  if fieldLegal s.opN s.opLsb s.opW then
    extractWith s.opOff s.opN (fun bytes => slice (be bytes) s.opLsb s.opW) s
  else .next (raiseErr .result .illegalCommand s)

end Sys2Proof.Machine
end

