-- ==== Sys2Proof/Machine/Pack.lean ====
section
/-! DEFINITION. The pack commands (41_field_extract.md): PK.BE, PK.REV32, PK.BITS. -/

namespace Sys2Proof.Machine

/-- The shared end of the pack commands: OB must exist and hold `n` bytes from `off`, then those bytes are
replaced by what `bytes` makes of their old contents (60_exceptions.md R268). A refused write leaves OB as it
was (R266). -/
def packWith (off n : Nat) (bytes : List Byte → List Byte) (s : State) : Host.Outcome State Fault Refusal :=
  match s.ob with
  | none => .next (raiseErr .nothing .outOfRange s)
  | some m =>
    if off + n > m.len then .next (raiseErr .nothing .outOfRange s)
    else .next (succeed { s with ob := some (m.write off (bytes (m.read off n))) })

/-- PK.BE (R131): the low 8n bits of ARG2 into n bytes of OB, big-endian. -/
def execPkBe (s : State) : Host.Outcome State Fault Refusal :=
  if groupLegal s.opN then packWith s.opOff s.opN (fun _ => beBytes s.opValue.toNat s.opN) s
  else .next (raiseErr .nothing .illegalCommand s)

/-- PK.REV32 (R132): ARG2 into four bytes of OB, the least significant first. -/
def execPkRev32 (s : State) : Host.Outcome State Fault Refusal :=
  packWith s.opOff 4 (fun _ => revBytes s.opValue.toNat 4) s

/-- PK.BITS (R133): ARG2 into a field of the big-endian group of n bytes, its other bits kept. -/
def execPkBits (s : State) : Host.Outcome State Fault Refusal :=
  if fieldLegal s.opN s.opLsb s.opW then
    packWith s.opOff s.opN
      (fun old => beBytes (insertField (BitVec.ofNat 32 (be old)) s.opLsb s.opW s.opValue).toNat s.opN) s
  else .next (raiseErr .nothing .illegalCommand s)

end Sys2Proof.Machine
end

