-- ==== Sys2Proof/Machine/Flags.lean ====
section
/-! DEFINITION. STATUS and the mirror registers: the codes of ERR and KIND, the bits of STATUS, LEN and OLEN
(10_state.md R24 to R32; 60_exceptions.md R260). -/

namespace Sys2Proof.Machine

/-- The number of an error code (R260). -/
def Err.code : Err → BitVec 3
  | .ok => 0
  | .nullInput => 1
  | .frameTooShort => 2
  | .frameWrongLength => 3
  | .outOfRange => 4
  | .illegalCommand => 5

/-- The error TC_SHORT_ERR names (R9, R194). -/
def shortErr : TcShortErr → Err
  | .frameWrongLength => .frameWrongLength
  | .frameTooShort => .frameTooShort

/-- The number of a kind (R24). -/
def FrameKind.code : FrameKind → BitVec 3
  | .sptp => 1
  | .icd => 2
  | .tm => 3
  | .tk => 4
  | .obt => 5
  | .hsi => 6
  | .tc => 7

/-- FRAME_VALID (R24, R27). -/
def State.frameValid (s : State) : Bool := s.frame.isSome

/-- KIND: the held frame's, 0 = NONE when there is none (R24, R27). -/
def State.kindCode (s : State) : BitVec 3 :=
  match s.frame with
  | some f => f.kind.code
  | none => 0

/-- OB_VALID (R24, R28). -/
def State.obValid (s : State) : Bool := s.ob.isSome

/-- IB_PRESENT (R24, R43). -/
def State.ibPresent (s : State) : Bool := s.ib.isSome

/-- The length of the presented input buffer, 0 when there is none (R32). -/
def State.ibLen (s : State) : Nat :=
  match s.ib with
  | some m => m.len
  | none => 0

/-- The length of the output buffer, 0 when OB_VALID = 0 (R32). -/
def State.obLen (s : State) : Nat :=
  match s.ob with
  | some m => m.len
  | none => 0

/-- One bit at its place in STATUS. -/
def statusBit (b : Bool) (place : Nat) : Word := (if b then (1 : Word) else 0) <<< place

/-- STATUS (R24): ERR 2:0, STICKY 3, FRAME_VALID 4, KIND 7:5, OB_VALID 8, IB_PRESENT 9, BUSY 10; every other
bit reads 0. -/
def State.statusWord (s : State) : Word :=
  s.err.code.setWidth 32 ||| statusBit s.sticky 3 ||| statusBit s.frameValid 4 |||
    (s.kindCode.setWidth 32 <<< 5) ||| statusBit s.obValid 8 ||| statusBit s.ibPresent 9 |||
    statusBit s.busy 10

end Sys2Proof.Machine
end

