-- ==== Sys2Proof/Machine/Parse.lean ====
section
/-! DEFINITION. The parse commands (42_parse_sptp_icd.md, 43_parse_tm_tk_obt.md, 44_parse_hsi_timecode.md), each one
atomic step by its own rule. Machine/Fsm.lean gives the byte-serial parser of 45_parser_fsm.md, which R216 says
agrees. No command looks at the value of any byte (R157), and Size is compared with nothing (R156). -/

namespace Sys2Proof.Machine

/-- PARSE.SPTP (R150). -/
def execParseSptp (s : State) : Host.Outcome State Fault Refusal :=
  match s.ib with
  | none => .next (failParse .sptp .nullInput s)
  | some m =>
    if m.len < 4 then .next (failParse .sptp .frameTooShort s)
    else
      .next (commitFrame (sptpFrame (m.read 0 4) m.len)
        (hiddenAfterCommit .sptp 4 (m.read 0 4) s.cfg.crcInit s.hid) s)

/-- PARSE.ICD (R152): the SPTP layer's minimum, then the six bytes of the ICD header. -/
def execParseIcd (s : State) : Host.Outcome State Fault Refusal :=
  match s.ib with
  | none => .next (failParse .icd .nullInput s)
  | some m =>
    if m.len < 4 then .next (failParse .icd .frameTooShort s)
    else if m.len - 4 < 6 then .next (failParse .icd .frameTooShort s)
    else
      .next (commitFrame (icdFrame (m.read 0 4) (m.read 4 6) m.len)
        (hiddenAfterCommit .icd 10 (m.read 0 10) s.cfg.crcInit s.hid) s)

/-- The shared parse of TM and TK (R170, R171): the CRC covers IB[4 .. LEN-2) (R173) and is not checked (R175). -/
def parseTmTk (k : FrameKind) (s : State) : Host.Outcome State Fault Refusal :=
  match s.ib with
  | none => .next (failParse k .nullInput s)
  | some m =>
    if m.len < 16 then .next (failParse k .frameTooShort s)
    else
      .next (commitFrame
        (tmtkFrame k (m.read 0 4) (m.read 4 6) (m.read 10 4) (m.read (m.len - 2) 2)
          (crc16 s.cfg (m.read 4 (m.len - 6))) m.len)
        (hiddenAfterCommit k m.len (m.read 0 14 ++ m.read (m.len - 2) 2)
          (crcFold s.cfg s.cfg.crcInit (m.read 4 (m.len - 6))) s.hid) s)

/-- PARSE.TM (R170). -/
def execParseTm (s : State) : Host.Outcome State Fault Refusal := parseTmTk .tm s

/-- PARSE.TK (R171): exactly PARSE.TM but for the kind. -/
def execParseTk (s : State) : Host.Outcome State Fault Refusal := parseTmTk .tk s

/-- PARSE.OBT (R177): one equality test on the length, made before any layer's minimum (R178). -/
def execParseObt (s : State) : Host.Outcome State Fault Refusal :=
  match s.ib with
  | none => .next (failParse .obt .nullInput s)
  | some m =>
    if m.len = 16 then
      .next (commitFrame (obtFrame (m.read 0 4) (m.read 4 6) (m.read 10 6))
        (hiddenAfterCommit .obt 16 (m.read 0 16) s.cfg.crcInit s.hid) s)
    else .next (failParse .obt .frameWrongLength s)

/-- PARSE.HSI (R190). -/
def execParseHsi (s : State) : Host.Outcome State Fault Refusal :=
  match s.ib with
  | none => .next (failParse .hsi .nullInput s)
  | some m =>
    if m.len < 4 then .next (failParse .hsi .frameTooShort s)
    else
      .next (commitFrame (hsiFrame (m.read 0 4) m.len)
        (hiddenAfterCommit .hsi 4 (m.read 0 4) s.cfg.crcInit s.hid) s)

/-- PARSE.TC (R193): the parameter TC_SHORT_ERR for an empty buffer, FrameWrongLength for any other length. -/
def execParseTc (s : State) : Host.Outcome State Fault Refusal :=
  match s.ib with
  | none => .next (failParse .tc .nullInput s)
  | some m =>
    if m.len = 0 then .next (failParse .tc (shortErr s.cfg.tcShortErr) s)
    else if m.len = 1 then
      .next (commitFrame (tcFrame (m.read 0 1))
        (hiddenAfterCommit .tc 1 (m.read 0 1) s.cfg.crcInit s.hid) s)
    else .next (failParse .tc .frameWrongLength s)

end Sys2Proof.Machine
end

