-- ==== Sys2Proof/Machine/System.lean ====
section
/-! DEFINITION. The system commands (47_system.md): NOP, CLR. -/

namespace Sys2Proof.Machine

/-- NOP (R250): ERR <- 0 and nothing else, in any state. -/
def execNop (s : State) : Host.Outcome State Fault Refusal := .next (succeed s)

/-- CLR (R251): every block-owned register to its reset value; the environment's buffer stays. -/
def execClr (s : State) : Host.Outcome State Fault Refusal :=
  .next (succeed { s with
    arg0 := 0, arg1 := 0, arg2 := 0, arg3 := 0, res := 0, crcAcc := s.cfg.crcInit, frame := none, ob := none,
    sticky := false })

end Sys2Proof.Machine
end

