-- ==== Sys2Proof/Machine/Dispatch.lean ====
section
/-! DEFINITION. One arm per command: its meaning (00_scope.md R16: one step is one whole command). -/

namespace Sys2Proof.Machine

def exec (i : Instr) (s : State) : Host.Outcome State Fault Refusal :=
  match i with
  | .nop => Sys2Proof.Machine.execNop s
  | .clr => Sys2Proof.Machine.execClr s
  | .crcClr => Sys2Proof.Machine.execCrcClr s
  | .crcUpd => Sys2Proof.Machine.execCrcUpd s
  | .crcRd => Sys2Proof.Machine.execCrcRd s
  | .crcRange => Sys2Proof.Machine.execCrcRange s
  | .fxBe => Sys2Proof.Machine.execFxBe s
  | .fxRev32 => Sys2Proof.Machine.execFxRev32 s
  | .fxBits => Sys2Proof.Machine.execFxBits s
  | .pkBe => Sys2Proof.Machine.execPkBe s
  | .pkRev32 => Sys2Proof.Machine.execPkRev32 s
  | .pkBits => Sys2Proof.Machine.execPkBits s
  | .parseSptp => Sys2Proof.Machine.execParseSptp s
  | .parseIcd => Sys2Proof.Machine.execParseIcd s
  | .parseTm => Sys2Proof.Machine.execParseTm s
  | .parseTk => Sys2Proof.Machine.execParseTk s
  | .parseObt => Sys2Proof.Machine.execParseObt s
  | .parseHsi => Sys2Proof.Machine.execParseHsi s
  | .parseTc => Sys2Proof.Machine.execParseTc s
  | .buildSptp => Sys2Proof.Machine.execBuildSptp s
  | .buildTk => Sys2Proof.Machine.execBuildTk s
  | .obNew => Sys2Proof.Machine.execObNew s

end Sys2Proof.Machine
end

