-- ==== Sys2Proof/Machine/Actions.lean ====
section
/-! DEFINITION. The host's side of the block (00_scope.md R14): the register map and its access rules (10_state.md
R46, R47), HOST.LOAD, HOST.WR, HOST.RD, HOST.RDOB, HOST.RESET, and the issue of a command by a write to CMD (R22). -/

namespace Sys2Proof.Machine

/-- The registers of the map of R46. -/
inductive Reg where
  | cmd | status | arg0 | arg1 | arg2 | arg3 | res | crcAcc | len | olen
  | fTo | fProtocolId | fMsgType | fFrom
  | fVersion | fType | fFlag | fApid | fSegment | fCounter | fSize
  | fSubhdr | fCrc | fNeededCrc
  | fObtNormal | fObtExtended | fObtValue
  | fTcValue
  | fHsiReserved | fHsiFlag | fHsiLine | fHsiSize
  | pay0Off | pay0Len | pay1Off | pay1Len | pay2Off | pay2Len
deriving DecidableEq, Repr

/-- The register map (R46): byte offset and register, in the table's order. -/
def registerMap : List (Nat × Reg) :=
  [(0x000, .cmd), (0x004, .status), (0x008, .arg0), (0x00C, .arg1), (0x010, .arg2), (0x014, .arg3)] ++
  [(0x018, .res), (0x01C, .crcAcc), (0x020, .len), (0x024, .olen)] ++
  [(0x040, .fTo), (0x044, .fProtocolId), (0x048, .fMsgType), (0x04C, .fFrom)] ++
  [(0x050, .fVersion), (0x054, .fType), (0x058, .fFlag), (0x05C, .fApid), (0x060, .fSegment)] ++
  [(0x064, .fCounter), (0x068, .fSize), (0x06C, .fSubhdr), (0x070, .fCrc), (0x074, .fNeededCrc)] ++
  [(0x078, .fObtNormal), (0x07C, .fObtExtended), (0x080, .fObtValue), (0x084, .fTcValue)] ++
  [(0x088, .fHsiReserved), (0x08C, .fHsiFlag), (0x090, .fHsiLine), (0x094, .fHsiSize)] ++
  [(0x098, .pay0Off), (0x09C, .pay0Len), (0x0A0, .pay1Off), (0x0A4, .pay1Len)] ++
  [(0x0A8, .pay2Off), (0x0AC, .pay2Len)]

/-- The register at a byte offset, none where the map has none. -/
def regAt (offset : Nat) : Option Reg := registerMap.lookup offset

/-- A frame register's value, zero-extended; it reads 0 when no frame is held (R33, R41). -/
def State.frameWord {n : Nat} (s : State) (field : Frame → BitVec n) : Word :=
  match s.frame with
  | some f => (field f).setWidth 32
  | none => 0

/-- The word a host read of a register gives (R46: the value in the low bits, higher bits 0; R47: CMD reads 0). -/
def State.readReg (s : State) : Reg → Word
  | .cmd => 0
  | .status => s.statusWord
  | .arg0 => s.arg0
  | .arg1 => s.arg1
  | .arg2 => s.arg2
  | .arg3 => s.arg3
  | .res => s.res
  | .crcAcc => s.crcAcc.setWidth 32
  | .len => BitVec.ofNat 32 s.ibLen
  | .olen => BitVec.ofNat 32 s.obLen
  | .fTo => s.frameWord (·.sptp.toAddr)
  | .fProtocolId => s.frameWord (·.sptp.protocolId)
  | .fMsgType => s.frameWord (·.sptp.msgType)
  | .fFrom => s.frameWord (·.sptp.fromAddr)
  | .fVersion => s.frameWord (·.icd.version)
  | .fType => s.frameWord (·.icd.type)
  | .fFlag => s.frameWord (·.icd.flag)
  | .fApid => s.frameWord (·.icd.apid)
  | .fSegment => s.frameWord (·.icd.segment)
  | .fCounter => s.frameWord (·.icd.counter)
  | .fSize => s.frameWord (·.icd.size)
  | .fSubhdr => s.frameWord (·.tmtk.subhdr)
  | .fCrc => s.frameWord (·.tmtk.crc)
  | .fNeededCrc => s.frameWord (·.tmtk.neededCrc)
  | .fObtNormal => s.frameWord (·.obt.normal)
  | .fObtExtended => s.frameWord (·.obt.extended)
  | .fObtValue => s.frameWord (·.obt.value)
  | .fTcValue => s.frameWord (·.tcValue)
  | .fHsiReserved => s.frameWord (·.hsi.reserved)
  | .fHsiFlag => s.frameWord (·.hsi.flag)
  | .fHsiLine => s.frameWord (·.hsi.line)
  | .fHsiSize => s.frameWord (·.hsi.size)
  | .pay0Off => s.frameWord (·.pay0.off)
  | .pay0Len => s.frameWord (·.pay0.len)
  | .pay1Off => s.frameWord (·.pay1.off)
  | .pay1Len => s.frameWord (·.pay1.len)
  | .pay2Off => s.frameWord (·.pay2.off)
  | .pay2Len => s.frameWord (·.pay2.len)

/-- The word a host read at an offset gives: 0 where the map has no register (R47). -/
def State.readOffset (s : State) (offset : Nat) : Word :=
  match regAt offset with
  | some r => s.readReg r
  | none => 0

/-- The byte a HOST.RDOB(i) gives: 0 at or beyond OLEN, and with OB_VALID = 0 (R44). -/
def State.readOb (s : State) (i : Nat) : Byte :=
  match s.ob with
  | some m => if i < m.len then m.byte i else 0
  | none => 0

/-- The opcode in a word written to CMD: bits 7:0; the bits above are ignored (R22, R47). -/
def cmdOpcode (v : Word) : Byte := v.extractLsb' 0 8

/-- A reserved opcode (30_encoding.md R87): ERR <- 5, STICKY <- 1, nothing else changes. -/
def execReserved (s : State) : Host.Outcome State Fault Refusal :=
  .next (raiseErr .nothing .illegalCommand s)

/-- Issue the command whose opcode the bytes begin with (R22, R91); an opcode no row matches is reserved. -/
def issue (bytes : List Byte) (s : State) : Host.Outcome State Fault Refusal :=
  match decode bytes with
  | .ok (i, _) => exec i s
  | .error _ => execReserved s

/-- HOST.WR to a register: CMD issues a command (R22), ARG0 to ARG3 take the word (R21), and a write to any
other register is ignored (R47). -/
def writeReg (r : Reg) (v : Word) (s : State) : Host.Outcome State Fault Refusal :=
  match r with
  | .cmd => issue [cmdOpcode v] s
  | .arg0 => .next { s with arg0 := v }
  | .arg1 => .next { s with arg1 := v }
  | .arg2 => .next { s with arg2 := v }
  | .arg3 => .next { s with arg3 := v }
  | _ => .next s

/-- HOST.WR at an offset; an offset the map does not have is ignored (R47). -/
def hostWrite (offset : Nat) (v : Word) (s : State) : Host.Outcome State Fault Refusal :=
  match regAt offset with
  | some r => writeReg r v s
  | none => .next s

/-- HOST.LOAD of a buffer: IB, IB_PRESENT and LEN are replaced at once and the held frame is cleared (R27, R43).
It is not a command and leaves ERR alone (70_reset_and_hazards.md R293). More than IB_MAX bytes is not a legal
host action (R14). -/
def hostLoad (bytes : List Byte) (s : State) : Host.Outcome State Fault Refusal :=
  if bytes.length > s.cfg.ibMax then .refused .loadTooLong
  else .next { s with ib := some (Memory.ofBytes bytes), frame := none }

/-- HOST.LOAD(absent) (R27, R43). -/
def hostLoadAbsent (s : State) : State := { s with ib := none, frame := none }

/-- HOST.RD: the host is told the word; the block does not change (R47). -/
def hostRead (offset : Nat) (s : State) : State :=
  { s with replies := s.replies ++ [.word (s.readOffset offset)] }

/-- HOST.RDOB (R44). -/
def hostReadOb (i : Nat) (s : State) : State := { s with replies := s.replies ++ [.byte (s.readOb i)] }

/-- HOST.RESET (70_reset_and_hazards.md R290): every piece of state at its reset value. The parameters, and the
host's own program and what it has been told, are not the block's. -/
def hostReset (s : State) : State :=
  { State.resetWith s.cfg with pending := s.pending, replies := s.replies }

/-- What a host action does (R14). -/
def performAction (a : HostAction) (s : State) : Host.Outcome State Fault Refusal :=
  match a with
  | .load bytes => hostLoad bytes s
  | .loadAbsent => .next (hostLoadAbsent s)
  | .wr offset v => hostWrite offset v s
  | .rd offset => .next (hostRead offset s)
  | .rdob i => .next (hostReadOb i s)
  | .reset => .next (hostReset s)

/-- Take the next host action and perform it. With none the block waits (R48, 47_system.md R252). -/
def stepAction (s : State) : Host.Outcome State Fault Refusal :=
  match s.pending with
  | [] => .next s
  | a :: rest => performAction a { s with pending := rest }

/-- The host action that issues the command whose bits are `w`. -/
def issueWord (nbits w : Nat) : HostAction := .wr 0x000 (BitVec.ofNat 32 (w % 2 ^ nbits))

end Sys2Proof.Machine
end

