-- ==== Sys2Proof/Machine/Step.lean ====
section
/-! DEFINITION. One step of the machine: the host's next action, which for a write to CMD is one whole command
(00_scope.md R14, R16). -/

namespace Sys2Proof.Machine

/-- One host action, or an idle step when none is pending. -/
def step (s : State) : Host.Outcome State Fault Refusal := stepAction s

/-- `s` with the write to CMD that issues the instruction as the very next host action (assumption 4). -/
def State.withFetchWord (s : State) (nbits w : Nat) : State :=
  { s with pending := issueWord nbits w :: s.pending }

end Sys2Proof.Machine
end

