-- ==== Sys2Proof/Machine/Fsm.lean ====
section
/-! DEFINITION. The byte-serial parser (45_parser_fsm.md R200 to R218): what the write of a PARSE opcode starts, one
micro-step per state, and the run of a number of micro-steps. It works on the same State as the commands, so that
R216 (the two levels agree) is an equation between states. -/

namespace Sys2Proof.Machine

/-- The encoding of PSTATE (R200). -/
def PState.code : PState → BitVec 4
  | .idle => 0
  | .check => 1
  | .sptp => 2
  | .icd => 3
  | .sub => 4
  | .pay => 5
  | .crc => 6
  | .obt => 7
  | .hsi => 8
  | .tc => 9
  | .commit => 10
  | .fail => 11

/-- The command that parses a kind (30_encoding.md R82). -/
def FrameKind.instr : FrameKind → Instr
  | .sptp => .parseSptp
  | .icd => .parseIcd
  | .tm => .parseTm
  | .tk => .parseTk
  | .obt => .parseObt
  | .hsi => .parseHsi
  | .tc => .parseTc

/-- P_IDLE on the write of a PARSE opcode (R203). -/
def fsmStart (k : FrameKind) (s : State) : State :=
  { s with busy := true, hid := { s.hid with pkind := some k, pos := 0, pstate := .check } }

/-- The length policy of a kind: the error of a buffer of `len` bytes, none where the length is accepted (R204). -/
def lengthError (c : Config) (k : Option FrameKind) (len : Nat) : Option Err :=
  match k with
  | some .sptp => if len < 4 then some .frameTooShort else none
  | some .hsi => if len < 4 then some .frameTooShort else none
  | some .icd => if len < 10 then some .frameTooShort else none
  | some .tm => if len < 16 then some .frameTooShort else none
  | some .tk => if len < 16 then some .frameTooShort else none
  | some .obt => if len ≠ 16 then some .frameWrongLength else none
  | some .tc =>
    if len = 0 then some (shortErr c.tcShortErr) else if len ≠ 1 then some .frameWrongLength else none
  | none => none

/-- The first capturing state of a kind (R204). -/
def firstCapture (k : Option FrameKind) : PState :=
  if k = some .hsi then .hsi else if k = some .tc then .tc else .sptp

/-- Leave P_CHECK for P_FAIL with a code. -/
def microReject (e : Err) (s : State) : State := { s with hid := { s.hid with perr := e, pstate := .fail } }

/-- P_CHECK (R204): presence, then the kind's length policy; no byte is read. -/
def microCheck (s : State) : State :=
  match s.ib with
  | none => microReject .nullInput s
  | some m =>
    match lengthError s.cfg s.hid.pkind m.len with
    | some e => microReject e s
    | none =>
      { s with hid := { s.hid with crcWork := s.cfg.crcInit, pstate := firstCapture s.hid.pkind } }

/-- The byte IB[POS]. -/
def State.posByte (s : State) : Byte :=
  match s.ib with
  | some m => m.byte s.hid.pos.toNat
  | none => unlistedByte

/-- PKIND is TM or TK. -/
def Hidden.isTmTk (h : Hidden) : Bool := h.pkind == some .tm || h.pkind == some .tk

/-- Consume the byte at POS (R202): into a slot of SH if one is named, into CRC_WORK if `feed`; POS advances by
one and PSTATE is the given one. -/
def consume (slot : Option Nat) (feed : Bool) (after : PState) (s : State) : State :=
  { s with
    hid := { s.hid with
      sh := match slot with
        | some i => s.hid.sh.set i s.posByte
        | none => s.hid.sh
      crcWork := if feed then crcUpdate s.cfg s.hid.crcWork s.posByte else s.hid.crcWork
      pos := s.hid.pos + 1
      pstate := after } }

/-- The value POS has after the byte is consumed. -/
def State.nextPos (s : State) : Nat := (s.hid.pos + 1).toNat

/-- P_SPTP (R205): four bytes, none of which enters the CRC. -/
def microSptp (s : State) : State :=
  consume (some s.hid.pos.toNat) false
    (if s.nextPos = 4 then (if s.hid.pkind = some .sptp then .commit else .icd) else .sptp) s

/-- P_ICD (R206): six bytes, which enter the CRC for TM and TK. The last `else` cannot be reached (R215). -/
def microIcd (s : State) : State :=
  consume (some s.hid.pos.toNat) s.hid.isTmTk
    (if s.nextPos = 10 then
      (if s.hid.pkind = some .icd then .commit else if s.hid.isTmTk then .sub else .obt)
     else .icd) s

/-- P_SUB (R207): four bytes of sub-header; P_PAY is left out when LEN = 16. -/
def microSub (s : State) : State :=
  consume (some s.hid.pos.toNat) true
    (if s.nextPos = 14 then (if s.ibLen = 16 then .crc else .pay) else .sub) s

/-- P_PAY (R208): the payload passes through the CRC up to LEN - 2, whatever F_SIZE is. -/
def microPay (s : State) : State :=
  consume none true (if s.nextPos = s.ibLen - 2 then .crc else .pay) s

/-- P_CRC (R209): the two trailer bytes into SH[14] and SH[15]; they do not enter the CRC. -/
def microCrc (s : State) : State :=
  consume (some (14 + (s.hid.pos.toNat - (s.ibLen - 2)))) false
    (if s.nextPos = s.ibLen then .commit else .crc) s

/-- P_OBT (R210): the six bytes of the OBT record. -/
def microObt (s : State) : State :=
  consume (some s.hid.pos.toNat) false (if s.nextPos = 16 then .commit else .obt) s

/-- P_HSI (R211): the four bytes of the HSI header. -/
def microHsi (s : State) : State :=
  consume (some s.hid.pos.toNat) false (if s.nextPos = 4 then .commit else .hsi) s

/-- P_TC (R212): SH[0] <- IB[0], POS <- 1. -/
def microTc (s : State) : State :=
  { s with hid := { s.hid with
      sh := s.hid.sh.set 0 (match s.ib with
        | some m => m.byte 0
        | none => unlistedByte)
      pos := 1
      pstate := .commit } }

/-- The bytes SH[lo .. hi). -/
def Hidden.slots (h : Hidden) (lo hi : Nat) : List Byte := (h.sh.take hi).drop lo

/-- The frame that P_COMMIT writes (R213): the assignments of the kind's rule, its reads replaced by SH slots
and its CRC by crc_final(CRC_WORK). -/
def committedFrame (c : Config) (k : FrameKind) (h : Hidden) (len : Nat) : Frame :=
  match k with
  | .sptp => sptpFrame (h.slots 0 4) len
  | .icd => icdFrame (h.slots 0 4) (h.slots 4 10) len
  | .tm =>
    tmtkFrame .tm (h.slots 0 4) (h.slots 4 10) (h.slots 10 14) (h.slots 14 16) (crcFinal c h.crcWork) len
  | .tk =>
    tmtkFrame .tk (h.slots 0 4) (h.slots 4 10) (h.slots 10 14) (h.slots 14 16) (crcFinal c h.crcWork) len
  | .obt => obtFrame (h.slots 0 4) (h.slots 4 10) (h.slots 10 16)
  | .hsi => hsiFrame (h.slots 0 4) len
  | .tc => tcFrame (h.slots 0 1)

/-- P_COMMIT (R213). With no kind in PKIND, which no command leads to, nothing is committed. -/
def microCommit (s : State) : State :=
  match s.hid.pkind with
  | some k => commitFrame (committedFrame s.cfg k s.hid s.ibLen) { s.hid with pstate := .idle } s
  | none => { s with busy := false, hid := { s.hid with pstate := .idle } }

/-- P_FAIL (R214). -/
def microFail (s : State) : State :=
  raiseErr .frameRegs s.hid.perr { s with busy := false, hid := { s.hid with pstate := .idle } }

/-- One micro-step; in P_IDLE the parser waits. -/
def microStep (s : State) : State :=
  match s.hid.pstate with
  | .idle => s
  | .check => microCheck s
  | .sptp => microSptp s
  | .icd => microIcd s
  | .sub => microSub s
  | .pay => microPay s
  | .crc => microCrc s
  | .obt => microObt s
  | .hsi => microHsi s
  | .tc => microTc s
  | .commit => microCommit s
  | .fail => microFail s

/-- `n` micro-steps. -/
def microRun : Nat → State → State
  | 0, s => s
  | n + 1, s => microRun n (microStep s)

/-- The number of micro-steps of a PARSE command (R215): 2 on failure; on success 2 and one for each byte
consumed. -/
def microCount (k : FrameKind) (s : State) : Nat :=
  match s.ib with
  | none => 2
  | some m =>
    match lengthError s.cfg (some k) m.len with
    | some _ => 2
    | none =>
      match k with
      | .sptp => 6
      | .icd => 12
      | .tm => m.len + 2
      | .tk => m.len + 2
      | .obt => 18
      | .hsi => 6
      | .tc => 3

end Sys2Proof.Machine
end

