-- ==== Sys2Proof/Machine/Program.lean ====
section
/-! DEFINITION. The host-program notation of 30_encoding.md R89 and the pseudo-commands of R90: each line as the host
actions it stands for. -/

namespace Sys2Proof.Machine

/-- The byte offset of a register in the map (10_state.md R46). -/
def Reg.offset (r : Reg) : Nat :=
  match registerMap.find? (fun e => e.2 == r) with
  | some e => e.1
  | none => 0

/-- ARG1 as the assembler forms it for formats F and P (R85, R89): n + (lsb << 8) + (w << 16). -/
def descriptor (n lsb w : Nat) : Word := BitVec.ofNat 32 (n + lsb * 2 ^ 8 + w * 2 ^ 16)

/-- One line of a host program (R89). Operands are the numbers the line writes. -/
inductive Line where
  | load (bytes : List Byte)
  | loadAbsent
  | reset
  | nop
  | clr
  | crcClr
  | crcUpd (byte : Word)
  | crcRd
  | crcRange (off len : Word)
  | fxBe (off : Word) (n : Nat)
  | fxRev32 (off : Word)
  | fxBits (off : Word) (n lsb w : Nat)
  | pkBe (off : Word) (n : Nat) (value : Word)
  | pkRev32 (off value : Word)
  | pkBits (off : Word) (n lsb w : Nat) (value : Word)
  | parse (kind : FrameKind)
  | buildSptp (toAddr fromAddr : Word)
  | buildTk (toAddr fromAddr apid : Word)
  | obNew (len : Word)
  | rd (reg : Reg)
  | rdob (i : Nat)
  | rdobRange (i j : Nat)
  | wr (reg : Reg) (value : Word)
deriving DecidableEq, Repr

/-- HOST.WR(CMD, opcode) for a command. -/
def issueOf (i : Instr) : HostAction := .wr Reg.cmd.offset ((encodeOpcode i).setWidth 32)

/-- HOST.WR to an operand register. -/
def writeTo (r : Reg) (v : Word) : HostAction := .wr r.offset v

/-- The host actions of a line (R89): the operand registers its format names, the lowest-numbered first, then
CMD. -/
def Line.actions : Line → List HostAction
  | .load bytes => [.load bytes]
  | .loadAbsent => [.loadAbsent]
  | .reset => [.reset]
  | .nop => [issueOf .nop]
  | .clr => [issueOf .clr]
  | .crcClr => [issueOf .crcClr]
  | .crcUpd byte => [writeTo .arg0 byte, issueOf .crcUpd]
  | .crcRd => [issueOf .crcRd]
  | .crcRange off len => [writeTo .arg0 off, writeTo .arg1 len, issueOf .crcRange]
  | .fxBe off n => [writeTo .arg0 off, writeTo .arg1 (descriptor n 0 0), issueOf .fxBe]
  | .fxRev32 off => [writeTo .arg0 off, issueOf .fxRev32]
  | .fxBits off n lsb w => [writeTo .arg0 off, writeTo .arg1 (descriptor n lsb w), issueOf .fxBits]
  | .pkBe off n value =>
    [writeTo .arg0 off, writeTo .arg1 (descriptor n 0 0), writeTo .arg2 value, issueOf .pkBe]
  | .pkRev32 off value => [writeTo .arg0 off, writeTo .arg2 value, issueOf .pkRev32]
  | .pkBits off n lsb w value =>
    [writeTo .arg0 off, writeTo .arg1 (descriptor n lsb w), writeTo .arg2 value, issueOf .pkBits]
  | .parse kind => [issueOf kind.instr]
  | .buildSptp toAddr fromAddr => [writeTo .arg0 toAddr, writeTo .arg1 fromAddr, issueOf .buildSptp]
  | .buildTk toAddr fromAddr apid =>
    [writeTo .arg0 toAddr, writeTo .arg1 fromAddr, writeTo .arg2 apid, issueOf .buildTk]
  | .obNew len => [writeTo .arg0 len, issueOf .obNew]
  | .rd reg => [.rd reg.offset]
  | .rdob i => [.rdob i]
  | .rdobRange i j => (List.range (j + 1 - i)).map fun k => .rdob (i + k)
  | .wr reg value => [writeTo reg value]

/-- The host actions of a program: its lines' in order (R14). -/
def assemble (lines : List Line) : List HostAction := lines.flatMap Line.actions

/-! ### Pseudo-commands (R90) -/

/-- `fx.u8 off`. -/
def pseudoU8 (off : Word) : Line := .fxBe off 1
/-- `fx.be16 off`. -/
def pseudoBe16 (off : Word) : Line := .fxBe off 2
/-- `fx.be24 off`. -/
def pseudoBe24 (off : Word) : Line := .fxBe off 3
/-- `fx.be32 off`. -/
def pseudoBe32 (off : Word) : Line := .fxBe off 4
/-- `fx.bit off, b`. -/
def pseudoBit (off : Word) (b : Nat) : Line := .fxBits off 1 b 1
/-- `crc.all`, given the current buffer length. -/
def pseudoCrcAll (len : Word) : Line := .crcRange 0 len
/-- `icd.version`. -/
def pseudoIcdVersion : Line := .fxBits 4 1 5 3
/-- `icd.type`. -/
def pseudoIcdType : Line := .fxBits 4 1 4 1
/-- `icd.flag`. -/
def pseudoIcdFlag : Line := .fxBits 4 1 3 1
/-- `icd.apid`. -/
def pseudoIcdApid : Line := .fxBits 4 2 0 11
/-- `icd.segment`. -/
def pseudoIcdSegment : Line := .fxBits 6 1 6 2
/-- `icd.counter`. -/
def pseudoIcdCounter : Line := .fxBits 6 2 0 14
/-- `icd.size`. -/
def pseudoIcdSize : Line := .fxBe 8 2
/-- `hsi.line`. -/
def pseudoHsiLine : Line := .fxBits 2 2 15 1
/-- `hsi.size`. -/
def pseudoHsiSize : Line := .fxBits 2 2 0 15
/-- `obt.value`. -/
def pseudoObtValue : Line := .fxRev32 12

end Sys2Proof.Machine
end

