-- ==== Sys2Proof/WellFormed.lean ====
section
/-! DEFINITION. Well-formedness: of a command (nothing to check, R80) and of a parameter binding (the
constraint column of 00_scope.md R9). The legality of a command's OPERANDS is no property of the command word:
R86 has the command check it when it runs (Machine/Operands.lean). -/

namespace Sys2Proof

/-- A command word is its opcode and nothing else (R80), so every constructor is well formed: there is no
operand field that could be out of range. -/
def Instr.wf : Instr → Bool
  | .nop | .clr | .crcClr | .crcUpd | .crcRd | .crcRange | .fxBe | .fxRev32 | .fxBits | .pkBe | .pkRev32
  | .pkBits | .parseSptp | .parseIcd | .parseTm | .parseTk | .parseObt | .parseHsi | .parseTc | .buildSptp
  | .buildTk | .obNew => true

/-- R9: PID_STANDARD != PID_ICD. -/
def Config.pidsDiffer (c : Config) : Bool := c.pidStandard != c.pidIcd

/-- R9: 65540 <= IB_MAX <= 2^32 - 1. -/
def Config.ibMaxOk (c : Config) : Bool := 65540 ≤ c.ibMax && c.ibMax ≤ 2 ^ 32 - 1

/-- R9: 18 <= OB_MAX <= 2^32 - 1. -/
def Config.obMaxOk (c : Config) : Bool := 18 ≤ c.obMax && c.obMax ≤ 2 ^ 32 - 1

/-- A legal binding of the parameters (R9; 93_implementation_defined.md U20). -/
def Config.wf (c : Config) : Bool := c.pidsDiffer && c.ibMaxOk && c.obMaxOk

end Sys2Proof
end

