-- ==== Sys2Proof/Safety.lean ====
section
/-! DEFINITION. What the claims call a safe run (60_exceptions.md R274), the legal states of the block, and the
projections and the tables of the spec in which claims are said. -/

namespace Sys2Proof.Machine

/-- The next state of an outcome, if it is one. -/
def nextState? (o : Host.Outcome State Fault Refusal) : Option State :=
  match o with
  | .next s => some s
  | .fault _ => none
  | .refused _ => none

/-- "No command of this run failed" (R274): STICKY = 0 at the end of a run that began with reset or CLR. -/
def State.noCommandFailed (s : State) : Prop := s.sticky = false

/-- The state without its hidden registers (10_state.md R45): what no command's result may depend on. -/
def State.visible (s : State) : State := { s with hid := Hidden.reset }

/-- The outcome of a command with the hidden registers of its next state taken out. -/
def visibleOutcome (o : Host.Outcome State Fault Refusal) : Host.Outcome State Fault Refusal :=
  match o with
  | .next s => .next s.visible
  | .fault r => .fault r
  | .refused r => .refused r

/-- The held frame is the one that parsing the present buffer gives (10_state.md R24, R27, R79): running the
PARSE command of its kind succeeds and commits the same frame. -/
def State.frameIsCurrent (s : State) : Prop :=
  ∀ f, s.frame = some f → ∃ t, exec f.kind.instr s = .next t ∧ t.err = .ok ∧ t.frame = some f

/-- A legal buffer: in canonical form and no longer than a bound. -/
def bufferOk (bound : Nat) (b : Option Memory) : Prop := ∀ m, b = some m → m.wf = true ∧ m.len ≤ bound

/-- The legal states of the block between commands. -/
structure State.Legal (s : State) : Prop where
  /-- The parameters are a legal binding (R9). -/
  cfg : s.cfg.wf = true
  /-- IB is canonical and LEN <= IB_MAX (R43). -/
  ib : bufferOk s.cfg.ibMax s.ib
  /-- OB is canonical and OLEN <= OB_MAX (R44). -/
  ob : bufferOk s.cfg.obMax s.ob
  /-- An error that is still in ERR is also in STICKY (R26). -/
  sticky : s.err ≠ .ok → s.sticky = true
  /-- The held frame is never stale (R27). -/
  frame : s.frameIsCurrent
  /-- The parser is idle between commands (R45). -/
  idle : s.hid.pstate = .idle
  /-- BUSY is never observed as 1 (R30). -/
  busy : s.busy = false
  /-- SH is sixteen bytes (R45). -/
  sh : s.hid.sh.length = 16

/-! ### The spec's layouts and tables, in the terms claims use -/

/-- The sum of 41_field_extract.md R120 over the `n` bytes at `off`: the first byte is the most significant. -/
def Memory.beSum (m : Memory) (off n : Nat) : Nat :=
  ∑ i ∈ Finset.range n, (m.byte (off + i)).toNat * 2 ^ (8 * (n - 1 - i))

/-- The SPTP header at offsets 0 to 3 (20_memory.md R71). -/
def Memory.sptpAt (m : Memory) : SptpRegs := ⟨m.byte 0, m.byte 1, m.byte 2, m.byte 3⟩

/-- The ICD header at offsets 4 to 9, bit by bit as the table of 42_parse_sptp_icd.md R153 lays it out. -/
def Memory.icdAt (m : Memory) : IcdRegs where
  version := (m.byte 4).extractLsb' 5 3
  type := (m.byte 4).extractLsb' 4 1
  flag := (m.byte 4).extractLsb' 3 1
  apid := (m.byte 4).extractLsb' 0 3 ++ m.byte 5
  segment := (m.byte 6).extractLsb' 6 2
  counter := (m.byte 6).extractLsb' 0 6 ++ m.byte 7
  size := m.byte 8 ++ m.byte 9

/-- The bytes IB[4 .. LEN-2) that the CRC of a TM or TK frame covers (20_memory.md R72). -/
def Memory.covered (m : Memory) : List Byte := (List.range (m.len - 6)).map fun i => m.byte (4 + i)

/-- The bytes of a frame packed again from its registers, and the bytes its views name (42_parse_sptp_icd.md R158;
for TM and TK the bytes between the sub-header and the trailer, R174). -/
def Frame.repacked (f : Frame) (m : Memory) : List Byte :=
  match f.kind with
  | .sptp => sptpBytes f ++ m.read f.pay0.off.toNat f.pay0.len.toNat
  | .icd => sptpBytes f ++ packIcd f.icd ++ m.read f.pay1.off.toNat f.pay1.len.toNat
  | .tm => tmtkBytes f
  | .tk => tmtkBytes f
  | .obt => sptpBytes f ++ packIcd f.icd ++ [f.obt.normal, f.obt.extended] ++ revBytes f.obt.value.toNat 4
  | .hsi =>
    [f.hsi.reserved, f.hsi.flag] ++ beBytes (f.hsi.line.toNat * 2 ^ 15 + f.hsi.size.toNat) 2 ++
      m.read f.pay0.off.toNat f.pay0.len.toNat
  | .tc => [f.tcValue]
where
  /-- The four SPTP header bytes. -/
  sptpBytes (f : Frame) : List Byte := [f.sptp.toAddr, f.sptp.protocolId, f.sptp.msgType, f.sptp.fromAddr]
  /-- A TM or TK frame: headers, sub-header, what lies between, trailer. -/
  tmtkBytes (f : Frame) : List Byte :=
    sptpBytes f ++ packIcd f.icd ++ beBytes f.tmtk.subhdr.toNat 4 ++ m.read 14 (m.len - 16) ++
      beBytes f.tmtk.crc.toNat 2

/-- The codes each command can end with (60_exceptions.md R269). -/
def possibleErrors (c : Config) : Instr → List Err
  | .nop | .clr | .crcClr | .crcUpd | .crcRd => [.ok]
  | .crcRange => [.ok, .nullInput, .outOfRange]
  | .fxBe | .fxBits => [.ok, .illegalCommand, .nullInput, .outOfRange]
  | .fxRev32 => [.ok, .nullInput, .outOfRange]
  | .pkBe | .pkBits => [.ok, .illegalCommand, .outOfRange]
  | .pkRev32 => [.ok, .outOfRange]
  | .parseSptp | .parseIcd | .parseTm | .parseTk | .parseHsi => [.ok, .nullInput, .frameTooShort]
  | .parseObt => [.ok, .nullInput, .frameWrongLength]
  | .parseTc => [.ok, .nullInput, .frameWrongLength, shortErr c.tcShortErr]
  | .buildSptp | .buildTk => [.ok, .nullInput, .outOfRange]
  | .obNew => [.ok, .outOfRange]

/-- The destination group of each command that can fail (60_exceptions.md R266). -/
def destinationOf : Instr → DestGroup
  | .crcRange | .fxBe | .fxRev32 | .fxBits => .result
  | .parseSptp | .parseIcd | .parseTm | .parseTk | .parseObt | .parseHsi | .parseTc => .frameRegs
  | .buildSptp | .buildTk | .obNew => .outputBuffer
  | .pkBe | .pkRev32 | .pkBits | .nop | .clr | .crcClr | .crcUpd | .crcRd => .nothing

/-- The edges of the parser's transition graph out of each state (45_parser_fsm.md R215). -/
def fsmEdges : PState → List PState
  | .idle => [.check]
  | .check => [.fail, .sptp, .hsi, .tc]
  | .sptp => [.sptp, .commit, .icd]
  | .icd => [.icd, .commit, .sub, .obt]
  | .sub => [.sub, .pay, .crc]
  | .pay => [.pay, .crc]
  | .crc => [.crc, .commit]
  | .obt => [.obt, .commit]
  | .hsi => [.hsi, .commit]
  | .tc => [.commit]
  | .commit => [.idle]
  | .fail => [.idle]

/-- A host action that clears STICKY: HOST.RESET, and the write of CLR's opcode to CMD (10_state.md R24, R26). -/
def clearsSticky : HostAction → Bool
  | .reset => true
  | .wr offset v => offset == 0x000 && v.extractLsb' 0 8 == 0x01#8
  | .load _ | .loadAbsent | .rd _ | .rdob _ => false

end Sys2Proof.Machine
end

