-- ==== Sys2Proof/Certificates/Slice0/Obligations.lean ====
section
/-! DEFINITION. The statements for the provers. A command's statement gives its opcode and, for every state, the
next state on each path of its rule as the state before with the fields the rule writes: every field that is not
named is unchanged, the bytes of both buffers among them. -/

open Sys2Proof Sys2Proof.Machine

/-! ### System commands -/

/-- 47_system.md R250. -/
def Obligations.NopWritesErrOnly : Prop :=
  decodeOpcode 0x00 = .ok .nop ∧ ∀ s : State, exec .nop s = .next { s with err := .ok }

/-- 47_system.md R251: CLR's effect in every state; no other command clears STICKY; and after `load absent` it gives
the state after reset (the hidden registers, which are don't-care between commands, and the host's own fields
apart). -/
def Obligations.ClrRestoresResetValues : Prop :=
  decodeOpcode 0x01 = .ok .clr ∧
  (∀ s : State, exec .clr s =
    .next { s with
      arg0 := 0, arg1 := 0, arg2 := 0, arg3 := 0, res := 0, crcAcc := s.cfg.crcInit, frame := none, ob := none,
      err := .ok, sticky := false }) ∧
  (∀ (i : Instr) (s t : State), i ≠ .clr → exec i s = .next t → s.sticky = true → t.sticky = true) ∧
  ∀ s : State, s.busy = false → exec .clr (hostLoadAbsent s) = .next { hostReset s with hid := s.hid }

/-! ### CRC commands -/

/-- 40_crc.md R104. -/
def Obligations.CrcClrSetsAccumulator : Prop :=
  decodeOpcode 0x10 = .ok .crcClr ∧
  ∀ s : State, exec .crcClr s = .next { s with crcAcc := s.cfg.crcInit, err := .ok }

/-- 40_crc.md R105. -/
def Obligations.CrcUpdFeedsOneByte : Prop :=
  decodeOpcode 0x11 = .ok .crcUpd ∧
  ∀ s : State, exec .crcUpd s =
    .next { s with crcAcc := crcUpdate s.cfg s.crcAcc (s.arg0.extractLsb' 0 8), err := .ok }

/-- 40_crc.md R106. -/
def Obligations.CrcRdFinalisesIntoRes : Prop :=
  decodeOpcode 0x12 = .ok .crcRd ∧
  ∀ s : State, exec .crcRd s = .next { s with res := (crcFinal s.cfg s.crcAcc).setWidth 32, err := .ok }

/-- 40_crc.md R107, the sum of off and len a natural number; only the hidden registers are left open. -/
def Obligations.CrcRangeOverInputBuffer : Prop :=
  decodeOpcode 0x13 = .ok .crcRange ∧
  ∀ s : State,
    (s.ib = none →
      exec .crcRange s = .next { s with res := 0, err := .nullInput, sticky := true }) ∧
    (∀ m, s.ib = some m → m.len < s.arg0.toNat + s.arg1.toNat →
      exec .crcRange s = .next { s with res := 0, err := .outOfRange, sticky := true }) ∧
    (∀ m, s.ib = some m → s.arg0.toNat + s.arg1.toNat ≤ m.len →
      ∃ h, exec .crcRange s = .next { s with
        res := (crc16 s.cfg ((List.range s.arg1.toNat).map fun i => m.byte (s.arg0.toNat + i))).setWidth 32,
        err := .ok, hid := h })

/-- 40_crc.md R101: crc_update and crc_final by the rule's own words, the reflections given bit by bit. -/
def Obligations.CrcUpdateIsBitSerial : Prop :=
  (∀ (c : Config) (acc : Half) (b r : Byte), (∀ i, i < 8 → r.getLsbD i = b.getLsbD (7 - i)) →
    crcUpdate c acc b =
      (List.range 8).foldl (fun a _ => if a.getLsbD 15 then (a <<< 1) ^^^ c.crcPoly else a <<< 1)
        (acc ^^^ ((if c.crcRefIn then r else b).setWidth 16 <<< 8))) ∧
  ∀ (c : Config) (acc r : Half), (∀ i, i < 16 → r.getLsbD i = acc.getLsbD (15 - i)) →
    crcFinal c acc = (if c.crcRefOut then r else acc) ^^^ c.crcXorOut

/-- The laws of 40_crc.md section 2: the accumulator continues over a concatenation; crc16 depends on the bytes
and the five parameters only; and with no reflection and no final xor a list followed by its own CRC has CRC 0. -/
def Obligations.CrcFunctionLaws : Prop :=
  (∀ (c : Config) (acc : Half) (a b : List Byte), crcFold c acc (a ++ b) = crcFold c (crcFold c acc a) b) ∧
  (∀ (c d : Config) (bytes : List Byte), c.crcPoly = d.crcPoly → c.crcInit = d.crcInit →
    c.crcRefIn = d.crcRefIn → c.crcRefOut = d.crcRefOut → c.crcXorOut = d.crcXorOut →
    crc16 c bytes = crc16 d bytes) ∧
  ∀ (c : Config) (bytes : List Byte), c.crcRefIn = false → c.crcRefOut = false → c.crcXorOut = 0 →
    crc16 c (bytes ++ [(crc16 c bytes).extractLsb' 8 8, (crc16 c bytes).extractLsb' 0 8]) = 0

/-- The two ways of computing a CRC agree, as runs of host programs: CRC.CLR, one CRC.UPD per byte and CRC.RD
leave in RES what loading the bytes and CRC.RANGE over the whole buffer leave there (40_crc.md section 2). -/
def Obligations.ByteSerialCrcEqualsRange : Prop :=
  (∀ (s : State) (bytes : List Byte) (rest : List HostAction),
    s.pending =
      [HostAction.wr 0x000 0x10] ++
        bytes.flatMap (fun b => [HostAction.wr 0x008 (b.setWidth 32), HostAction.wr 0x000 0x11]) ++
        [HostAction.wr 0x000 0x12] ++ rest →
    ∃ t, Host.Core.run Sys2Proof.core (2 * bytes.length + 2) s = .next t ∧
      t.res = (crc16 s.cfg bytes).setWidth 32 ∧ t.err = .ok ∧ t.pending = rest ∧ t.ib = s.ib ∧ t.ob = s.ob ∧
      t.frame = s.frame) ∧
  ∀ (s : State) (bytes : List Byte) (rest : List HostAction),
    s.cfg.wf = true → bytes.length ≤ s.cfg.ibMax →
    s.pending =
      [HostAction.load bytes, HostAction.wr 0x008 0, HostAction.wr 0x00C (BitVec.ofNat 32 bytes.length),
        HostAction.wr 0x000 0x13] ++ rest →
    ∃ t, Host.Core.run Sys2Proof.core 4 s = .next t ∧
      t.res = (crc16 s.cfg bytes).setWidth 32 ∧ t.err = .ok ∧ t.pending = rest ∧ t.crcAcc = s.crcAcc

/-! ### Extract commands -/

/-- 41_field_extract.md R127, the checks in the order of the pseudocode. -/
def Obligations.FxBeReadsBigEndian : Prop :=
  decodeOpcode 0x20 = .ok .fxBe ∧
  ∀ (s : State) (off n : Nat), off = s.arg0.toNat → n = (s.arg1.extractLsb' 0 3).toNat →
    (n < 1 ∨ 4 < n →
      exec .fxBe s = .next { s with res := 0, err := .illegalCommand, sticky := true }) ∧
    (1 ≤ n → n ≤ 4 → s.ib = none →
      exec .fxBe s = .next { s with res := 0, err := .nullInput, sticky := true }) ∧
    (1 ≤ n → n ≤ 4 → ∀ m, s.ib = some m → m.len < off + n →
      exec .fxBe s = .next { s with res := 0, err := .outOfRange, sticky := true }) ∧
    (1 ≤ n → n ≤ 4 → ∀ m, s.ib = some m → off + n ≤ m.len →
      exec .fxBe s = .next { s with res := BitVec.ofNat 32 (m.beSum off n), err := .ok })

/-- 41_field_extract.md R128: four bytes in reversed order. -/
def Obligations.FxRev32ReadsReversed : Prop :=
  decodeOpcode 0x21 = .ok .fxRev32 ∧
  ∀ (s : State) (off : Nat), off = s.arg0.toNat →
    (s.ib = none →
      exec .fxRev32 s = .next { s with res := 0, err := .nullInput, sticky := true }) ∧
    (∀ m, s.ib = some m → m.len < off + 4 →
      exec .fxRev32 s = .next { s with res := 0, err := .outOfRange, sticky := true }) ∧
    (∀ m, s.ib = some m → off + 4 ≤ m.len →
      exec .fxRev32 s = .next { s with
        res := m.byte (off + 3) ++ m.byte (off + 2) ++ m.byte (off + 1) ++ m.byte off, err := .ok })

/-- 41_field_extract.md R129. -/
def Obligations.FxBitsReadsField : Prop :=
  decodeOpcode 0x22 = .ok .fxBits ∧
  ∀ (s : State) (off n lsb w : Nat), off = s.arg0.toNat → n = (s.arg1.extractLsb' 0 3).toNat →
    lsb = (s.arg1.extractLsb' 8 5).toNat → w = (s.arg1.extractLsb' 16 6).toNat →
    (n < 1 ∨ 4 < n ∨ w < 1 ∨ 32 < w ∨ 8 * n < lsb + w →
      exec .fxBits s = .next { s with res := 0, err := .illegalCommand, sticky := true }) ∧
    (1 ≤ n → n ≤ 4 → 1 ≤ w → w ≤ 32 → lsb + w ≤ 8 * n →
      (s.ib = none →
        exec .fxBits s = .next { s with res := 0, err := .nullInput, sticky := true }) ∧
      (∀ m, s.ib = some m → m.len < off + n →
        exec .fxBits s = .next { s with res := 0, err := .outOfRange, sticky := true }) ∧
      (∀ m, s.ib = some m → off + n ≤ m.len →
        exec .fxBits s = .next { s with
          res := BitVec.ofNat 32 (m.beSum off n / 2 ^ lsb % 2 ^ w), err := .ok }))

/-! ### Pack commands -/

/-- 41_field_extract.md R131; a canonical OB stays canonical, the bytes written are those of ARG2, and every
other byte of OB is as before. -/
def Obligations.PkBeWritesBigEndian : Prop :=
  decodeOpcode 0x28 = .ok .pkBe ∧
  ∀ (s : State) (off n : Nat), off = s.arg0.toNat → n = (s.arg1.extractLsb' 0 3).toNat →
    (n < 1 ∨ 4 < n →
      exec .pkBe s = .next { s with err := .illegalCommand, sticky := true }) ∧
    (1 ≤ n → n ≤ 4 → s.ob = none →
      exec .pkBe s = .next { s with err := .outOfRange, sticky := true }) ∧
    (1 ≤ n → n ≤ 4 → ∀ m, s.ob = some m → m.len < off + n →
      exec .pkBe s = .next { s with err := .outOfRange, sticky := true }) ∧
    (1 ≤ n → n ≤ 4 → ∀ m, s.ob = some m → m.wf = true → off + n ≤ m.len →
      ∃ o, exec .pkBe s = .next { s with ob := some o, err := .ok } ∧ o.wf = true ∧ o.len = m.len ∧
        (∀ i, i < n → o.byte (off + i) = s.arg2.extractLsb' (8 * (n - 1 - i)) 8) ∧
        ∀ a, a < off ∨ off + n ≤ a → o.byte a = m.byte a)

/-- 41_field_extract.md R132. -/
def Obligations.PkRev32WritesReversed : Prop :=
  decodeOpcode 0x29 = .ok .pkRev32 ∧
  ∀ (s : State) (off : Nat), off = s.arg0.toNat →
    (s.ob = none →
      exec .pkRev32 s = .next { s with err := .outOfRange, sticky := true }) ∧
    (∀ m, s.ob = some m → m.len < off + 4 →
      exec .pkRev32 s = .next { s with err := .outOfRange, sticky := true }) ∧
    (∀ m, s.ob = some m → m.wf = true → off + 4 ≤ m.len →
      ∃ o, exec .pkRev32 s = .next { s with ob := some o, err := .ok } ∧ o.wf = true ∧ o.len = m.len ∧
        (∀ i, i < 4 → o.byte (off + i) = s.arg2.extractLsb' (8 * i) 8) ∧
        ∀ a, a < off ∨ off + 4 ≤ a → o.byte a = m.byte a)

/-- 41_field_extract.md R133, bit by bit: bit `j` of the big-endian group lies in the byte `j / 8` from the
group's end, and is ARG2's inside the field and the old one outside it. -/
def Obligations.PkBitsWritesField : Prop :=
  decodeOpcode 0x2A = .ok .pkBits ∧
  ∀ (s : State) (off n lsb w : Nat), off = s.arg0.toNat → n = (s.arg1.extractLsb' 0 3).toNat →
    lsb = (s.arg1.extractLsb' 8 5).toNat → w = (s.arg1.extractLsb' 16 6).toNat →
    (n < 1 ∨ 4 < n ∨ w < 1 ∨ 32 < w ∨ 8 * n < lsb + w →
      exec .pkBits s = .next { s with err := .illegalCommand, sticky := true }) ∧
    (1 ≤ n → n ≤ 4 → 1 ≤ w → w ≤ 32 → lsb + w ≤ 8 * n →
      (s.ob = none →
        exec .pkBits s = .next { s with err := .outOfRange, sticky := true }) ∧
      (∀ m, s.ob = some m → m.len < off + n →
        exec .pkBits s = .next { s with err := .outOfRange, sticky := true }) ∧
      (∀ m, s.ob = some m → m.wf = true → off + n ≤ m.len →
        ∃ o, exec .pkBits s = .next { s with ob := some o, err := .ok } ∧ o.wf = true ∧ o.len = m.len ∧
          (∀ j, j < 8 * n →
            (o.byte (off + (n - 1 - j / 8))).getLsbD (j % 8) =
              if lsb ≤ j ∧ j < lsb + w then s.arg2.getLsbD (j - lsb)
              else (m.byte (off + (n - 1 - j / 8))).getLsbD (j % 8)) ∧
          ∀ a, a < off ∨ off + n ≤ a → o.byte a = m.byte a))

/-! ### Parse commands -/

/-- 42_parse_sptp_icd.md R150. -/
def Obligations.ParseSptpCommitsFrame : Prop :=
  decodeOpcode 0x30 = .ok .parseSptp ∧
  ∀ s : State,
    (s.ib = none → ∃ h, exec .parseSptp s =
      .next { s with frame := none, err := .nullInput, sticky := true, busy := false, hid := h }) ∧
    (∀ m, s.ib = some m → m.len < 4 → ∃ h, exec .parseSptp s =
      .next { s with frame := none, err := .frameTooShort, sticky := true, busy := false, hid := h }) ∧
    (∀ m, s.ib = some m → 4 ≤ m.len → ∃ h, exec .parseSptp s =
      .next { s with
        frame := some { Frame.blank .sptp with
          sptp := m.sptpAt, pay0 := ⟨4, BitVec.ofNat 32 (m.len - 4)⟩ },
        err := .ok, busy := false, hid := h })

/-- 42_parse_sptp_icd.md R152 over the bit layout of R153. -/
def Obligations.ParseIcdCommitsFrame : Prop :=
  decodeOpcode 0x31 = .ok .parseIcd ∧
  ∀ s : State,
    (s.ib = none → ∃ h, exec .parseIcd s =
      .next { s with frame := none, err := .nullInput, sticky := true, busy := false, hid := h }) ∧
    (∀ m, s.ib = some m → m.len < 10 → ∃ h, exec .parseIcd s =
      .next { s with frame := none, err := .frameTooShort, sticky := true, busy := false, hid := h }) ∧
    (∀ m, s.ib = some m → 10 ≤ m.len → ∃ h, exec .parseIcd s =
      .next { s with
        frame := some { Frame.blank .icd with
          sptp := m.sptpAt, icd := m.icdAt,
          pay0 := ⟨4, BitVec.ofNat 32 (m.len - 4)⟩, pay1 := ⟨10, BitVec.ofNat 32 (m.len - 10)⟩ },
        err := .ok, busy := false, hid := h })

/-- 43_parse_tm_tk_obt.md R170, with the CRC values of R173 and the payload view of R174: whatever Size and the
trailer say, a long enough buffer parses. -/
def Obligations.ParseTmCommitsFrame : Prop :=
  decodeOpcode 0x32 = .ok .parseTm ∧
  ∀ s : State,
    (s.ib = none → ∃ h, exec .parseTm s =
      .next { s with frame := none, err := .nullInput, sticky := true, busy := false, hid := h }) ∧
    (∀ m, s.ib = some m → m.len < 16 → ∃ h, exec .parseTm s =
      .next { s with frame := none, err := .frameTooShort, sticky := true, busy := false, hid := h }) ∧
    (∀ m, s.ib = some m → 16 ≤ m.len → ∃ h, exec .parseTm s =
      .next { s with
        frame := some { Frame.blank .tm with
          sptp := m.sptpAt, icd := m.icdAt,
          tmtk := ⟨m.byte 10 ++ m.byte 11 ++ m.byte 12 ++ m.byte 13,
            m.byte (m.len - 2) ++ m.byte (m.len - 1), crc16 s.cfg m.covered⟩,
          pay0 := ⟨4, BitVec.ofNat 32 (m.len - 4)⟩, pay1 := ⟨10, BitVec.ofNat 32 (m.len - 10)⟩,
          pay2 := ⟨14, m.icdAt.size.setWidth 32⟩ },
        err := .ok, busy := false, hid := h })

/-- 43_parse_tm_tk_obt.md R171: PARSE.TM with the other kind. -/
def Obligations.ParseTkCommitsFrame : Prop :=
  decodeOpcode 0x33 = .ok .parseTk ∧
  ∀ s : State,
    (s.ib = none → ∃ h, exec .parseTk s =
      .next { s with frame := none, err := .nullInput, sticky := true, busy := false, hid := h }) ∧
    (∀ m, s.ib = some m → m.len < 16 → ∃ h, exec .parseTk s =
      .next { s with frame := none, err := .frameTooShort, sticky := true, busy := false, hid := h }) ∧
    (∀ m, s.ib = some m → 16 ≤ m.len → ∃ h, exec .parseTk s =
      .next { s with
        frame := some { Frame.blank .tk with
          sptp := m.sptpAt, icd := m.icdAt,
          tmtk := ⟨m.byte 10 ++ m.byte 11 ++ m.byte 12 ++ m.byte 13,
            m.byte (m.len - 2) ++ m.byte (m.len - 1), crc16 s.cfg m.covered⟩,
          pay0 := ⟨4, BitVec.ofNat 32 (m.len - 4)⟩, pay1 := ⟨10, BitVec.ofNat 32 (m.len - 10)⟩,
          pay2 := ⟨14, m.icdAt.size.setWidth 32⟩ },
        err := .ok, busy := false, hid := h })

/-- 43_parse_tm_tk_obt.md R177: every other length, shorter or longer, is FrameWrongLength (R178). -/
def Obligations.ParseObtCommitsFrame : Prop :=
  decodeOpcode 0x34 = .ok .parseObt ∧
  ∀ s : State,
    (s.ib = none → ∃ h, exec .parseObt s =
      .next { s with frame := none, err := .nullInput, sticky := true, busy := false, hid := h }) ∧
    (∀ m, s.ib = some m → m.len ≠ 16 → ∃ h, exec .parseObt s =
      .next { s with frame := none, err := .frameWrongLength, sticky := true, busy := false, hid := h }) ∧
    (∀ m, s.ib = some m → m.len = 16 → ∃ h, exec .parseObt s =
      .next { s with
        frame := some { Frame.blank .obt with
          sptp := m.sptpAt, icd := m.icdAt,
          obt := ⟨m.byte 10, m.byte 11, m.byte 15 ++ m.byte 14 ++ m.byte 13 ++ m.byte 12⟩,
          pay0 := ⟨4, 12⟩, pay1 := ⟨10, 6⟩ },
        err := .ok, busy := false, hid := h })

/-- 44_parse_hsi_timecode.md R190: Line is the top bit of bytes 2 and 3, Size the other fifteen. -/
def Obligations.ParseHsiCommitsFrame : Prop :=
  decodeOpcode 0x35 = .ok .parseHsi ∧
  ∀ s : State,
    (s.ib = none → ∃ h, exec .parseHsi s =
      .next { s with frame := none, err := .nullInput, sticky := true, busy := false, hid := h }) ∧
    (∀ m, s.ib = some m → m.len < 4 → ∃ h, exec .parseHsi s =
      .next { s with frame := none, err := .frameTooShort, sticky := true, busy := false, hid := h }) ∧
    (∀ m, s.ib = some m → 4 ≤ m.len → ∃ h, exec .parseHsi s =
      .next { s with
        frame := some { Frame.blank .hsi with
          hsi := ⟨m.byte 0, m.byte 1, (m.byte 2).extractLsb' 7 1, (m.byte 2).extractLsb' 0 7 ++ m.byte 3⟩,
          pay0 := ⟨4, BitVec.ofNat 32 (m.len - 4)⟩ },
        err := .ok, busy := false, hid := h })

/-- 44_parse_hsi_timecode.md R193: the parameter TC_SHORT_ERR decides the error of an empty buffer only. -/
def Obligations.ParseTcCommitsFrame : Prop :=
  decodeOpcode 0x36 = .ok .parseTc ∧
  ∀ s : State,
    (s.ib = none → ∃ h, exec .parseTc s =
      .next { s with frame := none, err := .nullInput, sticky := true, busy := false, hid := h }) ∧
    (∀ m, s.ib = some m → m.len = 0 → s.cfg.tcShortErr = .frameWrongLength → ∃ h, exec .parseTc s =
      .next { s with frame := none, err := .frameWrongLength, sticky := true, busy := false, hid := h }) ∧
    (∀ m, s.ib = some m → m.len = 0 → s.cfg.tcShortErr = .frameTooShort → ∃ h, exec .parseTc s =
      .next { s with frame := none, err := .frameTooShort, sticky := true, busy := false, hid := h }) ∧
    (∀ m, s.ib = some m → 2 ≤ m.len → ∃ h, exec .parseTc s =
      .next { s with frame := none, err := .frameWrongLength, sticky := true, busy := false, hid := h }) ∧
    (∀ m, s.ib = some m → m.len = 1 → ∃ h, exec .parseTc s =
      .next { s with
        frame := some { Frame.blank .tc with tcValue := m.byte 0, pay0 := ⟨0, 1⟩ },
        err := .ok, busy := false, hid := h })

/-! ### Build commands -/

/-- 46_build.md R232. -/
def Obligations.BuildSptpWritesFrame : Prop :=
  decodeOpcode 0x40 = .ok .buildSptp ∧
  ∀ s : State,
    (s.ib = none →
      exec .buildSptp s = .next { s with ob := none, err := .nullInput, sticky := true }) ∧
    (∀ m, s.ib = some m → s.cfg.obMax < m.len + 4 →
      exec .buildSptp s = .next { s with ob := none, err := .outOfRange, sticky := true }) ∧
    (∀ m, s.ib = some m → m.len + 4 ≤ s.cfg.obMax →
      ∃ o, exec .buildSptp s = .next { s with ob := some o, err := .ok } ∧ o.wf = true ∧
        o.len = m.len + 4 ∧ o.byte 0 = s.arg0.extractLsb' 0 8 ∧ o.byte 1 = s.cfg.pidStandard ∧
        o.byte 2 = s.cfg.mtData ∧ o.byte 3 = s.arg1.extractLsb' 0 8 ∧
        ∀ i, i < m.len → o.byte (4 + i) = m.byte i)

/-- 46_build.md R234, the header bytes as R235 gives them; there is no sub-header (R236). -/
def Obligations.BuildTkWritesFrame : Prop :=
  decodeOpcode 0x41 = .ok .buildTk ∧
  ∀ s : State,
    (s.ib = none →
      exec .buildTk s = .next { s with ob := none, err := .nullInput, sticky := true }) ∧
    (∀ m, s.ib = some m → 65535 < m.len →
      exec .buildTk s = .next { s with ob := none, err := .outOfRange, sticky := true }) ∧
    (∀ m, s.ib = some m → m.len ≤ 65535 → s.cfg.obMax < m.len + 12 →
      exec .buildTk s = .next { s with ob := none, err := .outOfRange, sticky := true }) ∧
    (∀ m, s.ib = some m → m.len ≤ 65535 → m.len + 12 ≤ s.cfg.obMax →
      ∃ o h, exec .buildTk s = .next { s with ob := some o, err := .ok, hid := h } ∧ o.wf = true ∧
        o.len = m.len + 12 ∧
        o.byte 0 = s.arg0.extractLsb' 0 8 ∧ o.byte 1 = s.cfg.pidIcd ∧ o.byte 2 = 0x00 ∧
        o.byte 3 = s.arg1.extractLsb' 0 8 ∧
        o.byte 4 = 0#3 ++ s.cfg.tkType ++ s.cfg.flagHeaderFill ++ s.arg2.extractLsb' 8 3 ∧
        o.byte 5 = s.arg2.extractLsb' 0 8 ∧ o.byte 6 = 0xC0 ∧ o.byte 7 = 0x00 ∧
        o.byte 8 = BitVec.ofNat 8 (m.len / 256) ∧ o.byte 9 = BitVec.ofNat 8 m.len ∧
        (∀ i, i < m.len → o.byte (10 + i) = m.byte i) ∧
        o.byte (m.len + 10) ++ o.byte (m.len + 11) =
          crc16 s.cfg ((List.range (m.len + 6)).map fun i => o.byte (4 + i)))

/-- 46_build.md R230. -/
def Obligations.ObNewMakesZeroBuffer : Prop :=
  decodeOpcode 0x48 = .ok .obNew ∧
  ∀ s : State,
    (s.cfg.obMax < s.arg0.toNat →
      exec .obNew s = .next { s with ob := none, err := .outOfRange, sticky := true }) ∧
    (s.arg0.toNat ≤ s.cfg.obMax →
      ∃ o, exec .obNew s = .next { s with ob := some o, err := .ok } ∧ o.wf = true ∧
        o.len = s.arg0.toNat ∧ ∀ a, o.byte a = 0x00)

/-! ### Encoding and the step -/

/-- Words of the table of 30_encoding.md R81, one from each family, and what they stand for. -/
def Obligations.TableWordsDecode : Prop :=
  decode [0x00] = .ok (.nop, []) ∧ decode [0x13] = .ok (.crcRange, []) ∧ decode [0x22] = .ok (.fxBits, []) ∧
  decode [0x29] = .ok (.pkRev32, []) ∧ decode [0x34] = .ok (.parseObt, []) ∧ decode [0x48] = .ok (.obNew, []) ∧
  decode [0x3F] = .error (.reserved 0x3F) ∧ decode [] = .error .noOpcode

/-- Decoding and encoding agree in both directions (30_encoding.md R80, R91). -/
def Obligations.DecodeInvertsEncode : Prop :=
  ∀ (bytes rest : List Byte) (i : Instr), decode bytes = .ok (i, rest) ↔ bytes = encode i ++ rest

/-- 30_encoding.md R87: exactly these opcodes are reserved, and writing one to CMD sets ERR to 5 and STICKY and
changes nothing else. -/
def Obligations.ReservedOpcodesAreIllegal : Prop :=
  (∀ c : Byte, decodeOpcode c = .error (.reserved c) ↔
    (0x02 ≤ c.toNat ∧ c.toNat ≤ 0x0F) ∨ (0x14 ≤ c.toNat ∧ c.toNat ≤ 0x1F) ∨ (0x23 ≤ c.toNat ∧ c.toNat ≤ 0x27) ∨
    (0x2B ≤ c.toNat ∧ c.toNat ≤ 0x2F) ∨ (0x37 ≤ c.toNat ∧ c.toNat ≤ 0x3F) ∨ (0x42 ≤ c.toNat ∧ c.toNat ≤ 0x47) ∨
    0x49 ≤ c.toNat) ∧
  ∀ (s : State) (v : Word) (rest : List HostAction), s.pending = .wr 0x000 v :: rest →
    decodeOpcode (v.extractLsb' 0 8) = .error (.reserved (v.extractLsb' 0 8)) →
    step s = .next { s with pending := rest, err := .illegalCommand, sticky := true } ∧
      Err.illegalCommand.code = 5

/-- A write to CMD whose low byte decodes to a command is one step: that command, on the state with the write
taken off the host's program (10_state.md section 2). -/
def Obligations.StepRunsDecodedCommand : Prop :=
  ∀ (s : State) (v : Word) (rest : List HostAction) (i : Instr), s.pending = .wr 0x000 v :: rest →
    decode [v.extractLsb' 0 8] = .ok (i, []) → i.wf = true → step s = exec i { s with pending := rest }

/-- 30_encoding.md R82, its sentence on PARSE opcodes: the low nibble plus 1 is the KIND a successful parse leaves,
and the seven opcodes are 0x30 to 0x36. -/
def Obligations.ParseOpcodeGivesKind : Prop :=
  ∀ (k : FrameKind) (s t : State), exec k.instr s = .next t → t.err = .ok →
    t.frameValid = true ∧ t.kindCode.toNat = (encodeOpcode k.instr).toNat % 16 + 1 ∧
      (encodeOpcode k.instr).toNat / 16 = 3

/-! ### The host's actions -/

/-- HOST.LOAD (10_state.md section 5): IB is replaced by the bytes given, the held frame is cleared, and nothing
else changes; a load of more than IB_MAX bytes, which is not a legal host action, is refused. -/
def Obligations.HostLoadReplacesBuffer : Prop :=
  (∀ (s : State) (bytes : List Byte) (rest : List HostAction), s.pending = .load bytes :: rest →
    bytes.length ≤ s.cfg.ibMax →
    ∃ m, step s = .next { s with pending := rest, ib := some m, frame := none } ∧ m.wf = true ∧
      m.len = bytes.length ∧ ∀ i (h : i < bytes.length), m.byte i = bytes[i]) ∧
  (∀ (s : State) (rest : List HostAction), s.pending = .loadAbsent :: rest →
    step s = .next { s with pending := rest, ib := none, frame := none }) ∧
  ∀ (s : State) (bytes : List Byte) (rest : List HostAction), s.pending = .load bytes :: rest →
    s.cfg.ibMax < bytes.length → step s = .refused .loadTooLong

/-- 10_state.md R47: a write to a read-only register or to an offset not in the map is ignored, the bits of CMD
above bit 7 are ignored, ARG0 to ARG3 take any word, and a read changes nothing but what the host is told: 0 from
CMD and from an offset not in the map. -/
def Obligations.RegisterAccessRules : Prop :=
  (∀ (s : State) (offset : Nat) (v : Word) (rest : List HostAction), s.pending = .wr offset v :: rest →
    (offset = 0x000 → ∀ w : Word, w.extractLsb' 0 8 = v.extractLsb' 0 8 →
      step { s with pending := .wr 0x000 w :: rest } = step s) ∧
    (offset = 0x008 → step s = .next { s with pending := rest, arg0 := v }) ∧
    (offset = 0x00C → step s = .next { s with pending := rest, arg1 := v }) ∧
    (offset = 0x010 → step s = .next { s with pending := rest, arg2 := v }) ∧
    (offset = 0x014 → step s = .next { s with pending := rest, arg3 := v }) ∧
    (offset ∉ [0x000, 0x008, 0x00C, 0x010, 0x014] → step s = .next { s with pending := rest })) ∧
  ∀ (s : State) (offset : Nat) (rest : List HostAction), s.pending = .rd offset :: rest →
    step s = .next { s with pending := rest, replies := s.replies ++ [.word (s.readOffset offset)] } ∧
      (offset = 0x000 → s.readOffset offset = 0) ∧
      (offset ∉ registerMap.map Prod.fst → s.readOffset offset = 0)

/-- The fields of STATUS (10_state.md section 3), read at offset 0x004, with the number of each error code
(60_exceptions.md section 1) and of each kind. -/
def Obligations.StatusWordFields : Prop :=
  ∀ (s : State) (w : Word), w = s.readOffset 0x004 →
    w.extractLsb' 0 3 = (match s.err with
      | .ok => 0
      | .nullInput => 1
      | .frameTooShort => 2
      | .frameWrongLength => 3
      | .outOfRange => 4
      | .illegalCommand => 5) ∧
    w.getLsbD 3 = s.sticky ∧ w.getLsbD 4 = s.frame.isSome ∧
    w.extractLsb' 5 3 = (match s.frame.map Frame.kind with
      | none => 0
      | some .sptp => 1
      | some .icd => 2
      | some .tm => 3
      | some .tk => 4
      | some .obt => 5
      | some .hsi => 6
      | some .tc => 7) ∧
    w.getLsbD 8 = s.ob.isSome ∧ w.getLsbD 9 = s.ib.isSome ∧ w.getLsbD 10 = s.busy ∧
    ∀ i, 11 ≤ i → w.getLsbD i = false

/-- The register map (10_state.md section 6) from 0x008 up; CMD and STATUS are RegisterAccessRules and
StatusWordFields. In every state: ARG0 to ARG3, RES and CRC_ACC; LEN and OLEN, the lengths of the buffers and 0
without one (section 3). While a frame is held every frame register reads its field, and while none is held 0. Every
offset without a row reads 0; that one that is no multiple of 4 has no row is log entry 11. -/
def Obligations.RegisterMapReads : Prop :=
  (∀ s : State,
    (∀ p ∈ [(0x008, s.arg0), (0x00C, s.arg1), (0x010, s.arg2), (0x014, s.arg3), (0x018, s.res),
      (0x01C, s.crcAcc.setWidth 32)], s.readOffset p.1 = p.2) ∧
    (∀ m, s.ib = some m → s.readOffset 0x020 = BitVec.ofNat 32 m.len) ∧ (s.ib = none → s.readOffset 0x020 = 0) ∧
    (∀ m, s.ob = some m → s.readOffset 0x024 = BitVec.ofNat 32 m.len) ∧ (s.ob = none → s.readOffset 0x024 = 0) ∧
    ∀ offset, offset % 4 ≠ 0 ∨ (0x024 < offset ∧ offset < 0x040) ∨ 0x0AC < offset → s.readOffset offset = 0) ∧
  (∀ (s : State) (f : Frame), s.frame = some f →
    ∀ p ∈ [(0x040, f.sptp.toAddr.setWidth 32), (0x044, f.sptp.protocolId.setWidth 32),
      (0x048, f.sptp.msgType.setWidth 32), (0x04C, f.sptp.fromAddr.setWidth 32),
      (0x050, f.icd.version.setWidth 32), (0x054, f.icd.type.setWidth 32), (0x058, f.icd.flag.setWidth 32),
      (0x05C, f.icd.apid.setWidth 32), (0x060, f.icd.segment.setWidth 32), (0x064, f.icd.counter.setWidth 32),
      (0x068, f.icd.size.setWidth 32), (0x06C, f.tmtk.subhdr), (0x070, f.tmtk.crc.setWidth 32),
      (0x074, f.tmtk.neededCrc.setWidth 32), (0x078, f.obt.normal.setWidth 32),
      (0x07C, f.obt.extended.setWidth 32), (0x080, f.obt.value), (0x084, f.tcValue.setWidth 32),
      (0x088, f.hsi.reserved.setWidth 32), (0x08C, f.hsi.flag.setWidth 32), (0x090, f.hsi.line.setWidth 32),
      (0x094, f.hsi.size.setWidth 32), (0x098, f.pay0.off), (0x09C, f.pay0.len), (0x0A0, f.pay1.off),
      (0x0A4, f.pay1.len), (0x0A8, f.pay2.off), (0x0AC, f.pay2.len)], s.readOffset p.1 = p.2) ∧
  ∀ (s : State) (offset : Nat), s.frame = none → 0x040 ≤ offset → s.readOffset offset = 0

/-- HOST.RDOB (10_state.md section 5): the byte of OB, 0 at or beyond OLEN and with no valid buffer. -/
def Obligations.RdobReadsOutputBuffer : Prop :=
  ∀ (s : State) (i : Nat) (rest : List HostAction), s.pending = .rdob i :: rest →
    (∀ m, s.ob = some m → i < m.len →
      step s = .next { s with pending := rest, replies := s.replies ++ [.byte (m.byte i)] }) ∧
    (∀ m, s.ob = some m → m.len ≤ i →
      step s = .next { s with pending := rest, replies := s.replies ++ [.byte 0] }) ∧
    (s.ob = none → step s = .next { s with pending := rest, replies := s.replies ++ [.byte 0] })

/-- The reset values (10_state.md section 7): what HOST.RESET leaves from every state, and what State.reset, the
machine of Sys2Proof.core right after reset, holds. The hidden registers other than PSTATE are unspecified there and
nothing is said of them. The model's own part: that the parameters and the host's fields stay (log entry 13), and
how the block waits for a write to CMD: at State.reset no host action is pending, and a step with none pending
changes nothing (log entry 4). -/
def Obligations.HostResetLeavesResetValues : Prop :=
  (∀ (s : State) (rest : List HostAction), s.pending = .reset :: rest →
    ∃ t, step s = .next t ∧ t.cfg = s.cfg ∧ t.pending = rest ∧ t.replies = s.replies ∧
      t.arg0 = 0 ∧ t.arg1 = 0 ∧ t.arg2 = 0 ∧ t.arg3 = 0 ∧ t.res = 0 ∧ t.err = .ok ∧ t.sticky = false ∧
      t.busy = false ∧ t.crcAcc = s.cfg.crcInit ∧ t.frame = none ∧ t.ob = none ∧ t.ib = none ∧
      t.hid.pstate = .idle ∧
      ∀ offset, t.readOffset offset = if offset = 0x01C then s.cfg.crcInit.setWidth 32 else 0) ∧
  (State.reset.frame = none ∧ State.reset.ob = none ∧ State.reset.ib = none ∧ State.reset.hid.pstate = .idle ∧
    State.reset.pending = [] ∧
    ∀ offset, State.reset.readOffset offset = if offset = 0x01C then 0xFFFF else 0) ∧
  ∀ s : State, s.pending = [] → step s = .next s

/-! ### Invariants -/

/-- Every step keeps the legal states (`State.Legal`): canonical buffers within their limits, no error lost from
STICKY, the held frame always the parse of the present buffer, the parser idle. -/
def Obligations.EveryStepKeepsLegal : Prop := ∀ s t : State, s.Legal → step s = .next t → t.Legal

/-- The state after reset is legal, under every legal binding of the parameters and under the default one. -/
def Obligations.ResetStateIsLegal : Prop :=
  State.reset.Legal ∧ ∀ c : Config, c.wf = true → (State.resetWith c).Legal

/-- In every legal state a held frame has its buffer, and its PAY0 and PAY1 lie inside it (10_state.md section 4). -/
def Obligations.HeldViewsLieInsideBuffer : Prop :=
  ∀ (s : State) (f : Frame), s.Legal → s.frame = some f →
    ∃ m, s.ib = some m ∧ f.pay0.off.toNat + f.pay0.len.toNat ≤ m.len ∧
      f.pay1.off.toNat + f.pay1.len.toNat ≤ m.len

/-! ### The byte-serial parser -/

/-- 45_parser_fsm.md R216: from every state whose SH is sixteen bytes and whose buffer has a legal length, the
micro-steps from the write to CMD until PSTATE is P_IDLE again leave every register but the hidden ones as the
atomic command does. -/
def Obligations.ParserRunAgreesWithAtomic : Prop :=
  ∀ (k : FrameKind) (s : State), s.hid.sh.length = 16 → s.ibLen < 2 ^ 32 →
    ∃ n t, exec k.instr s = .next t ∧ (microRun n (fsmStart k s)).hid.pstate = .idle ∧
      (∀ j, j < n → (microRun j (fsmStart k s)).hid.pstate ≠ .idle) ∧
      (microRun n (fsmStart k s)).visible = t.visible

/-- The number of micro-steps of each command (45_parser_fsm.md section 3): 2 on failure, 2 and the bytes consumed
on success; the parser is back in P_IDLE then and not before. -/
def Obligations.ParserMicroStepCounts : Prop :=
  (∀ (k : FrameKind) (s : State), s.ibLen < 2 ^ 32 →
    (microRun (microCount k s) (fsmStart k s)).hid.pstate = .idle ∧
    ∀ n, n < microCount k s → (microRun n (fsmStart k s)).hid.pstate ≠ .idle) ∧
  (∀ (k : FrameKind) (s : State), s.ib = none → microCount k s = 2) ∧
  ∀ (s : State) (m : Memory), s.ib = some m →
    microCount .sptp s = (if 4 ≤ m.len then 6 else 2) ∧ microCount .icd s = (if 10 ≤ m.len then 12 else 2) ∧
    microCount .tm s = (if 16 ≤ m.len then m.len + 2 else 2) ∧
    microCount .tk s = (if 16 ≤ m.len then m.len + 2 else 2) ∧
    microCount .obt s = (if m.len = 16 then 18 else 2) ∧ microCount .hsi s = (if 4 ≤ m.len then 6 else 2) ∧
    microCount .tc s = (if m.len = 1 then 3 else 2)

/-- The only edges of the parser are those of 45_parser_fsm.md section 3; in particular P_FAIL is entered from
P_CHECK alone. -/
def Obligations.ParserFollowsItsGraph : Prop :=
  (∀ s : State, s.hid.pstate ≠ .idle → (microStep s).hid.pstate ∈ fsmEdges s.hid.pstate) ∧
  (∀ (k : FrameKind) (s : State), (fsmStart k s).hid.pstate ∈ fsmEdges .idle) ∧
  ∀ s : State, s.hid.pstate ≠ .fail → (microStep s).hid.pstate = .fail → s.hid.pstate = .check

/-- Before P_COMMIT or P_FAIL a micro-step changes hidden registers only, so no partly parsed frame can be read
(45_parser_fsm.md section 2). -/
def Obligations.ParserHidesPartialFrames : Prop :=
  ∀ s : State, s.hid.pstate ≠ .commit → s.hid.pstate ≠ .fail → ∃ h, microStep s = { s with hid := h }

/-! ### Whole-machine rules -/

/-- No command's visible result depends on the hidden registers (10_state.md section 5). -/
def Obligations.HiddenRegistersAreNeverRead : Prop :=
  ∀ (i : Instr) (s : State) (h : Hidden),
    visibleOutcome (exec i { s with hid := h }) = visibleOutcome (exec i s)

/-- No command's result depends on ERR, STICKY, FRAME_VALID and KIND (with the held frame) or BUSY (10_state.md
section 3): changing them changes no other register a command leaves, and the frame only by keeping it. -/
def Obligations.StatusFieldsAreOutputOnly : Prop :=
  ∀ (i : Instr) (s : State) (e : Err) (k b : Bool) (f : Option Frame),
    ∃ t u, exec i s = .next t ∧ exec i { s with err := e, sticky := k, busy := b, frame := f } = .next u ∧
      u.err = t.err ∧ u.res = t.res ∧ u.crcAcc = t.crcAcc ∧ u.ob = t.ob ∧ u.ib = t.ib ∧ u.hid = t.hid ∧
      u.arg0 = t.arg0 ∧ u.arg1 = t.arg1 ∧ u.arg2 = t.arg2 ∧ u.arg3 = t.arg3 ∧
      (u.frame = t.frame ∨ (t.frame = s.frame ∧ u.frame = f))

/-- Which commands write which state (10_state.md sections 2 to 5): no command writes IB, the parameters or the
host's fields; CLR alone writes ARG0 to ARG3; and each other register is written by the commands listed alone. -/
def Obligations.CommandsWriteOnlyTheirGroup : Prop :=
  ∀ (i : Instr) (s t : State), exec i s = .next t →
    t.cfg = s.cfg ∧ t.ib = s.ib ∧ t.pending = s.pending ∧ t.replies = s.replies ∧
    (i ≠ .clr → t.arg0 = s.arg0 ∧ t.arg1 = s.arg1 ∧ t.arg2 = s.arg2 ∧ t.arg3 = s.arg3) ∧
    (i ∉ [.clr, .crcRd, .crcRange, .fxBe, .fxRev32, .fxBits] → t.res = s.res) ∧
    (i ∉ [.clr, .crcClr, .crcUpd] → t.crcAcc = s.crcAcc) ∧
    (i ∉ [.clr, .parseSptp, .parseIcd, .parseTm, .parseTk, .parseObt, .parseHsi, .parseTc] →
      t.frame = s.frame ∧ t.busy = s.busy) ∧
    (i ∉ [.clr, .obNew, .buildSptp, .buildTk, .pkBe, .pkRev32, .pkBits] → t.ob = s.ob) ∧
    (i ≠ .clr → t.err = .ok → t.sticky = s.sticky)

/-- 60_exceptions.md R269: the codes each command can end with. -/
def Obligations.CommandsEndWithListedCodes : Prop :=
  (∀ (i : Instr) (s t : State), exec i s = .next t → t.err ∈ possibleErrors s.cfg i) ∧
  ∀ s t : State, execReserved s = .next t → t.err = .illegalCommand

/-- 60_exceptions.md R266: a command that fails writes ERR and STICKY, clears its destination group, and changes
nothing else (BUSY and the hidden registers, which the host never sees change, apart). -/
def Obligations.FailureClearsDestinationGroup : Prop :=
  (∀ (i : Instr) (s t : State), exec i s = .next t → t.err ≠ .ok →
    t = { s with
      err := t.err, sticky := true,
      res := if destinationOf i = .result then 0 else s.res,
      frame := if destinationOf i = .frameRegs then none else s.frame,
      ob := if destinationOf i = .outputBuffer then none else s.ob,
      busy := t.busy, hid := t.hid }) ∧
  (∀ (i : Instr) (s t : State), i ∈ [.nop, .clr, .crcClr, .crcUpd, .crcRd] → exec i s = .next t → t.err = .ok) ∧
  ∀ s : State, execReserved s = .next { s with err := .illegalCommand, sticky := true }

/-- Every command completes from every state, and so does every legal host action (70_reset_and_hazards.md
section 3). -/
def Obligations.EveryCommandCompletes : Prop :=
  (∀ (i : Instr) (s : State), ∃ t, exec i s = .next t) ∧
  ∀ s : State, (∀ bytes rest, s.pending = .load bytes :: rest → bytes.length ≤ s.cfg.ibMax) →
    ∃ t, step s = .next t

/-- The safety predicate of 60_exceptions.md section 4: at the end of a run from a state with ERR = 0 and STICKY = 0
(as reset and CLR leave them), through actions none of which clears STICKY, STICKY = 0 exactly when ERR was 0 after
every action. -/
def Obligations.StickyTellsWhetherACommandFailed : Prop :=
  ∀ (s t : State), s.err = .ok → s.sticky = false → (∀ a ∈ s.pending, clearsSticky a = false) →
    Host.Core.run Sys2Proof.core s.pending.length s = .next t →
    (t.noCommandFailed ↔
      ∀ n, n ≤ s.pending.length → ∃ u, Host.Core.run Sys2Proof.core n s = .next u ∧ u.err = .ok)

/-- 70_reset_and_hazards.md R298: every command but CRC.UPD, issued again in the state it left, leaves that state
(the hidden registers, which are don't-care between commands, apart). OB is canonical, as in every legal state. -/
def Obligations.CommandsAreIdempotent : Prop :=
  ∀ (i : Instr) (s t : State), i ≠ .crcUpd → (∀ m, s.ob = some m → m.wf = true) →
    exec i s = .next t → ∃ u, exec i t = .next u ∧ u.visible = t.visible

/-- Packing the fields of a parsed frame again, with the bytes its views name, gives the buffer it was parsed from
(42_parse_sptp_icd.md section 3; 70_reset_and_hazards.md section 4). -/
def Obligations.ParsedFieldsRebuildTheBuffer : Prop :=
  ∀ (k : FrameKind) (s t : State) (m : Memory) (f : Frame), s.ib = some m → m.len < 2 ^ 32 →
    exec k.instr s = .next t → t.err = .ok → t.frame = some f → f.repacked m = m.toBytes

/-- The ICD header's fields tile its 48 bits (41_field_extract.md section 4): packing inverts unpacking and
unpacking inverts packing. -/
def Obligations.IcdPackingIsExact : Prop :=
  (∀ h : List Byte, h.length = 6 → packIcd (unpackIcd h) = h) ∧ ∀ r : IcdRegs, unpackIcd (packIcd r) = r

/-- The laws of 41_field_extract.md section 1: composition and decomposition invert each other in both byte orders,
and a field inserted into a group of at most 32 bits reads back, disturbs no other field, and changes nothing when
it is the field's own value. -/
def Obligations.FieldFunctionLaws : Prop :=
  (∀ v n, be (beBytes v n) = v % 2 ^ (8 * n)) ∧ (∀ l : List Byte, beBytes (be l) l.length = l) ∧
  (∀ v n, rev (revBytes v n) = v % 2 ^ (8 * n)) ∧ (∀ l : List Byte, revBytes (rev l) l.length = l) ∧
  (∀ (old v : Word) (lsb w : Nat), lsb + w ≤ 32 →
    slice (insertField old lsb w v).toNat lsb w = v.toNat % 2 ^ w) ∧
  (∀ (old v : Word) (lsb w l2 w2 : Nat), lsb + w ≤ 32 → l2 + w2 ≤ lsb ∨ lsb + w ≤ l2 →
    slice (insertField old lsb w v).toNat l2 w2 = slice old.toNat l2 w2) ∧
  ∀ (old : Word) (lsb w : Nat), lsb + w ≤ 32 →
    insertField old lsb w (BitVec.ofNat 32 (slice old.toNat lsb w)) = old

/-- Layer agreement (70_reset_and_hazards.md section 4): whichever of the stacked kinds a buffer is parsed as, the
SPTP registers are the same, and so are the ICD registers of the kinds that have them. -/
def Obligations.LayersAgreeOnSharedRegisters : Prop :=
  ∀ (j k : FrameKind) (s t u : State) (f g : Frame),
    j ∈ [.sptp, .icd, .tm, .tk, .obt] → k ∈ [.sptp, .icd, .tm, .tk, .obt] →
    exec j.instr s = .next t → exec k.instr s = .next u → t.frame = some f → u.frame = some g →
    t.err = .ok → u.err = .ok →
    f.sptp = g.sptp ∧ (j ≠ .sptp → k ≠ .sptp → f.icd = g.icd)

/-- The pseudo-commands of 30_encoding.md section 4, run as host programs, return in RES the value the matching
PARSE command puts in the matching frame register. -/
def Obligations.PseudoCommandsReadParsedFields : Prop :=
  (∀ (s : State) (m : Memory) (line : Line) (v : Word), s.ib = some m → 10 ≤ m.len →
    (line, v) ∈ [(pseudoIcdVersion, m.icdAt.version.setWidth 32), (pseudoIcdType, m.icdAt.type.setWidth 32),
      (pseudoIcdFlag, m.icdAt.flag.setWidth 32), (pseudoIcdApid, m.icdAt.apid.setWidth 32),
      (pseudoIcdSegment, m.icdAt.segment.setWidth 32), (pseudoIcdCounter, m.icdAt.counter.setWidth 32),
      (pseudoIcdSize, m.icdAt.size.setWidth 32)] →
    s.pending = line.actions →
    ∃ t, Host.Core.run Sys2Proof.core line.actions.length s = .next t ∧ t.err = .ok ∧ t.res = v) ∧
  (∀ (s : State) (m : Memory) (line : Line) (v : Word), s.ib = some m → 4 ≤ m.len →
    (line, v) ∈ [(pseudoHsiLine, ((m.byte 2).extractLsb' 7 1).setWidth 32),
      (pseudoHsiSize, ((m.byte 2).extractLsb' 0 7 ++ m.byte 3).setWidth 32)] →
    s.pending = line.actions →
    ∃ t, Host.Core.run Sys2Proof.core line.actions.length s = .next t ∧ t.err = .ok ∧ t.res = v) ∧
  ∀ (s : State) (m : Memory), s.ib = some m → 16 ≤ m.len → s.pending = pseudoObtValue.actions →
    ∃ t, Host.Core.run Sys2Proof.core pseudoObtValue.actions.length s = .next t ∧ t.err = .ok ∧
      t.res = m.byte 15 ++ m.byte 14 ++ m.byte 13 ++ m.byte 12

/-- 46_build.md R233: what BUILD.SPTP builds, loaded as IB, parses back to the build's arguments and payload. -/
def Obligations.BuiltSptpFrameParsesBack : Prop :=
  ∀ (s t u : State) (m o : Memory), s.ib = some m → m.len + 4 ≤ s.cfg.obMax → m.len + 4 < 2 ^ 32 →
    exec .buildSptp s = .next t → t.ob = some o → hostLoad o.toBytes t = .next u →
    ∃ v f, exec .parseSptp u = .next v ∧ v.err = .ok ∧ v.frame = some f ∧
      f.sptp = ⟨s.arg0.extractLsb' 0 8, s.cfg.pidStandard, s.cfg.mtData, s.arg1.extractLsb' 0 8⟩ ∧
      f.pay0 = ⟨4, BitVec.ofNat 32 m.len⟩ ∧ o.read f.pay0.off.toNat f.pay0.len.toNat = m.toBytes

/-- 46_build.md R237: what BUILD.TK builds from a payload P of at least 4 bytes, loaded as IB, parses back as TK with
the header fields of the build and equal CRCs; P is the view PAY1 without its last two bytes; and PARSE.ICD gives
the same SPTP and ICD fields for every payload. -/
def Obligations.BuiltTkFrameParsesBack : Prop :=
  ∀ (s t u : State) (m o : Memory), s.ib = some m → m.len ≤ 65535 → m.len + 12 ≤ s.cfg.obMax →
    exec .buildTk s = .next t → t.ob = some o → hostLoad o.toBytes t = .next u →
    (4 ≤ m.len →
      ∃ v f, exec .parseTk u = .next v ∧ v.err = .ok ∧ v.frame = some f ∧
        f.sptp = ⟨s.arg0.extractLsb' 0 8, s.cfg.pidIcd, 0, s.arg1.extractLsb' 0 8⟩ ∧
        f.icd = ⟨0, s.cfg.tkType, s.cfg.flagHeaderFill, s.arg2.extractLsb' 0 11, 3, 0, BitVec.ofNat 16 m.len⟩ ∧
        f.tmtk.crc = crc16 s.cfg (packIcd f.icd ++ m.toBytes) ∧ f.tmtk.neededCrc = f.tmtk.crc ∧
        f.pay1.off = 10 ∧ f.pay1.len.toNat = m.len + 2 ∧ o.read 10 m.len = m.toBytes) ∧
    ∃ v f, exec .parseIcd u = .next v ∧ v.err = .ok ∧ v.frame = some f ∧
      f.sptp = ⟨s.arg0.extractLsb' 0 8, s.cfg.pidIcd, 0, s.arg1.extractLsb' 0 8⟩ ∧
      f.icd = ⟨0, s.cfg.tkType, s.cfg.flagHeaderFill, s.arg2.extractLsb' 0 11, 3, 0, BitVec.ofNat 16 m.len⟩
end

