-- ==== Sys2Proof/Laws/Crc.lean ====
section
/-! SUPPORT. The CRC unit's small laws (40_crc.md R101 to R103). -/

namespace Sys2Proof.Machine

@[simp] theorem crcFold_nil (c : Config) (acc : Half) : crcFold c acc [] = acc := rfl

@[simp] theorem crcFold_cons (c : Config) (acc : Half) (b : Byte) (rest : List Byte) :
    crcFold c acc (b :: rest) = crcFold c (crcUpdate c acc b) rest := rfl

theorem crcFold_append_singleton (c : Config) (acc : Half) (bytes : List Byte) (b : Byte) :
    crcFold c acc (bytes ++ [b]) = crcUpdate c (crcFold c acc bytes) b := by
  simp [crcFold]

@[simp] theorem crcShifts_zero (p acc : Half) : crcShifts p 0 acc = acc := rfl

theorem crcShifts_succ (p : Half) (n : Nat) (acc : Half) :
    crcShifts p (n + 1) acc = crcShifts p n (crcShift p acc) := rfl

/-- A shift with the top bit clear adds no polynomial. -/
theorem crcShift_clear (p acc : Half) (h : acc.getLsbD 15 = false) : crcShift p acc = acc <<< 1 := by
  rw [crcShift, h]; rfl

end Sys2Proof.Machine
end

