-- ==== Sys2Proof/Laws/Exec.lean ====
section
/-! SUPPORT. Once for each shared operation of the commands, everything it can do: a proof cites these instead of
unfolding the command. -/

namespace Sys2Proof.Machine

/-- What the shared end of the extract commands can do. -/
theorem extractWith_cases {off n : Nat} {value : List Byte → Nat} {s t : State}
    (h : extractWith off n value s = .next t) :
    (s.ib = none ∧ t = raiseErr .result .nullInput s) ∨
    (∃ m, s.ib = some m ∧ m.len < off + n ∧ t = raiseErr .result .outOfRange s) ∨
    (∃ m, s.ib = some m ∧ off + n ≤ m.len ∧
      t = succeed { s with res := BitVec.ofNat 32 (value (m.read off n)) }) := by
  unfold extractWith at h
  split at h
  · cases h; exact .inl ⟨by assumption, rfl⟩
  · split at h <;> cases h
    · exact .inr (.inl ⟨_, by assumption, by omega, rfl⟩)
    · exact .inr (.inr ⟨_, by assumption, by omega, rfl⟩)

/-- What the shared end of the pack commands can do. -/
theorem packWith_cases {off n : Nat} {bytes : List Byte → List Byte} {s t : State}
    (h : packWith off n bytes s = .next t) :
    (s.ob = none ∧ t = raiseErr .nothing .outOfRange s) ∨
    (∃ m, s.ob = some m ∧ m.len < off + n ∧ t = raiseErr .nothing .outOfRange s) ∨
    (∃ m, s.ob = some m ∧ off + n ≤ m.len ∧
      t = succeed { s with ob := some (m.write off (bytes (m.read off n))) }) := by
  unfold packWith at h
  split at h
  · cases h; exact .inl ⟨by assumption, rfl⟩
  · split at h <;> cases h
    · exact .inr (.inl ⟨_, by assumption, by omega, rfl⟩)
    · exact .inr (.inr ⟨_, by assumption, by omega, rfl⟩)

/-- What the shared parse of TM and TK can do. -/
theorem parseTmTk_cases {k : FrameKind} {s t : State} (h : parseTmTk k s = .next t) :
    (s.ib = none ∧ t = failParse k .nullInput s) ∨
    (∃ m, s.ib = some m ∧ m.len < 16 ∧ t = failParse k .frameTooShort s) ∨
    (∃ m, s.ib = some m ∧ 16 ≤ m.len ∧
      t = commitFrame
        (tmtkFrame k (m.read 0 4) (m.read 4 6) (m.read 10 4) (m.read (m.len - 2) 2)
          (crc16 s.cfg (m.read 4 (m.len - 6))) m.len)
        (hiddenAfterCommit k m.len (m.read 0 14 ++ m.read (m.len - 2) 2)
          (crcFold s.cfg s.cfg.crcInit (m.read 4 (m.len - 6))) s.hid) s) := by
  unfold parseTmTk at h
  split at h
  · cases h; exact .inl ⟨by assumption, rfl⟩
  · split at h <;> cases h
    · exact .inr (.inl ⟨_, by assumption, by assumption, rfl⟩)
    · exact .inr (.inr ⟨_, by assumption, by omega, rfl⟩)

end Sys2Proof.Machine
end

