-- ==== Sys2Proof/Laws/Fields.lean ====
section
/-! SUPPORT. What the composition functions compute (41_field_extract.md R120 to R124), in the forms later proofs
cite: one step at each end of a list, the bound of the value, and each byte of a decomposition. -/

namespace Sys2Proof.Machine

@[simp] theorem be_nil : be [] = 0 := rfl

/-- One more byte at the low end. -/
theorem be_append_singleton (bytes : List Byte) (b : Byte) : be (bytes ++ [b]) = be bytes * 256 + b.toNat := by
  simp [be]

theorem be_foldl (bytes : List Byte) (acc : Nat) :
    bytes.foldl (fun acc b => acc * 256 + b.toNat) acc = acc * 256 ^ bytes.length + be bytes := by
  induction bytes generalizing acc with
  | nil => simp
  | cons b rest ih =>
    have h := ih (acc * 256 + b.toNat)
    have h0 := ih (0 * 256 + b.toNat)
    simp only [be, List.foldl_cons, List.length_cons] at *
    rw [h, h0]
    ring

/-- One more byte at the high end: the first byte is the most significant (R120). -/
theorem be_cons (b : Byte) (rest : List Byte) : be (b :: rest) = b.toNat * 256 ^ rest.length + be rest := by
  have h := be_foldl rest b.toNat
  simpa [be] using h

theorem be_append (l r : List Byte) : be (l ++ r) = be l * 256 ^ r.length + be r := by
  simpa [be] using be_foldl r (be l)

theorem be_lt (bytes : List Byte) : be bytes < 256 ^ bytes.length := by
  induction bytes with
  | nil => simp
  | cons b rest ih =>
    have hb := b.isLt
    rw [be_cons, List.length_cons, pow_succ]
    nlinarith [Nat.pow_pos (n := rest.length) (show 0 < 256 by decide)]

/-- rev is be of the reversed list (R121). -/
theorem rev_eq_be_reverse (bytes : List Byte) : rev bytes = be bytes.reverse := by
  induction bytes with
  | nil => rfl
  | cons b rest ih => rw [List.reverse_cons, be_append_singleton, ← ih, rev]; ring

@[simp] theorem length_beBytes (v n : Nat) : (beBytes v n).length = n := by simp [beBytes]

@[simp] theorem length_revBytes (v n : Nat) : (revBytes v n).length = n := by simp [revBytes]

/-- Each byte of a big-endian decomposition (R123). -/
theorem getD_beBytes (v n i : Nat) (h : i < n) :
    (beBytes v n).getD i 0 = BitVec.ofNat 8 (v / 2 ^ (8 * (n - 1 - i))) := by
  have hlt : 8 * (n - 1 - i) + 8 ≤ 8 * n := by omega
  simp only [beBytes, List.getD_eq_getElem?_getD, List.getElem?_map, List.getElem?_range h, Option.map_some,
    Option.getD_some]
  apply BitVec.eq_of_toNat_eq
  simp only [BitVec.toNat_ofNat]
  obtain ⟨k, hk⟩ := Nat.exists_eq_add_of_le hlt
  rw [hk, Nat.add_assoc, Nat.pow_add 2 (8 * (n - 1 - i)), Nat.mod_mul_right_div_self,
    Nat.pow_add 2 8 k, Nat.mod_mul_right_mod]

/-- Each byte of a reversed decomposition (R124). -/
theorem getD_revBytes (v n i : Nat) (h : i < n) :
    (revBytes v n).getD i 0 = BitVec.ofNat 8 (v / 2 ^ (8 * i)) := by
  have hlt : 8 * i + 8 ≤ 8 * n := by omega
  simp only [revBytes, List.getD_eq_getElem?_getD, List.getElem?_map, List.getElem?_range h, Option.map_some,
    Option.getD_some]
  apply BitVec.eq_of_toNat_eq
  simp only [BitVec.toNat_ofNat]
  obtain ⟨k, hk⟩ := Nat.exists_eq_add_of_le hlt
  rw [hk, Nat.add_assoc, Nat.pow_add 2 (8 * i), Nat.mod_mul_right_div_self, Nat.pow_add 2 8 k,
    Nat.mod_mul_right_mod]

theorem slice_lt (v lsb w : Nat) : slice v lsb w < 2 ^ w := Nat.mod_lt _ (by positivity)

end Sys2Proof.Machine
end

