-- ==== Sys2Proof/Laws/Memory.lean ====
section
/-! SUPPORT. The laws of buffers: what a byte, a range, a write and a laid-out list read as, and that every
operation keeps the canonical form (20_memory.md R62 to R64). -/

namespace Sys2Proof.Machine

/-! ### The canonical form -/

theorem cellsWf_cons {len lo a : Nat} {v : Byte} {rest : List Host.Cell} :
    cellsWf len lo ((a, v) :: rest) = true ↔
      lo ≤ a ∧ a < len ∧ v ≠ unlistedByte ∧ cellsWf len (a + 1) rest = true := by
  simp [cellsWf, and_assoc]

theorem cellsWf_mono {len lo lo' : Nat} (h : lo' ≤ lo) :
    ∀ {cells : List Host.Cell}, cellsWf len lo cells = true → cellsWf len lo' cells = true
  | [], _ => rfl
  | (_, _) :: _, hw => by
    rw [cellsWf_cons] at hw ⊢
    exact ⟨h.trans hw.1, hw.2⟩

/-- Nothing is listed below the bound of a canonical list. -/
theorem cellGet_below {len lo a : Nat} {cells : List Host.Cell} (hw : cellsWf len lo cells = true)
    (h : a < lo) : cellGet cells a = unlistedByte := by
  cases cells with
  | nil => rfl
  | cons c rest =>
    obtain ⟨b, v⟩ := c
    rw [cellsWf_cons] at hw
    simp [cellGet, show a < b by omega]

/-- Nothing is listed at or beyond the end of a canonical buffer. -/
theorem cellGet_beyond {len a : Nat} (h : len ≤ a) :
    ∀ {lo : Nat} {cells : List Host.Cell}, cellsWf len lo cells = true → cellGet cells a = unlistedByte
  | _, [], _ => rfl
  | _, (b, v) :: rest, hw => by
    rw [cellsWf_cons] at hw
    obtain ⟨-, hb, -, hr⟩ := hw
    simp only [cellGet]
    split
    · rfl
    · rw [if_neg (by omega)]
      exact cellGet_beyond h hr

/-- A byte at or beyond the end of a canonical buffer reads as `unlistedByte`. -/
theorem Memory.byte_beyond {m : Memory} (hw : m.wf = true) {a : Nat} (h : m.len ≤ a) :
    m.byte a = unlistedByte := cellGet_beyond h hw

/-! ### Ranges -/

theorem cellGet_skip {a b : Nat} (h : b ≤ a) :
    ∀ {cells : List Host.Cell}, cellGet (cellSkip cells b) a = cellGet cells a
  | [] => rfl
  | (c, v) :: rest => by
    simp only [cellSkip]
    split
    · rw [cellGet_skip h]
      simp [cellGet, show ¬ a < c by omega, show ¬ c = a by omega]
    · rfl

theorem cellRange_eq (n : Nat) :
    ∀ (cells : List Host.Cell) (a : Nat),
      cellRange cells a n = (List.range n).map fun i => cellGet cells (a + i) := by
  induction n with
  | zero => intro cells a; rfl
  | succ n ih =>
    intro cells a
    rw [cellRange, ih, cellGet_skip (le_refl a), List.range_succ_eq_map]
    simp only [List.map_cons, List.map_map, Nat.add_zero, List.cons.injEq, true_and]
    refine List.map_congr_left fun i _ => ?_
    simp only [Function.comp_apply, Nat.succ_eq_add_one]
    rw [cellGet_skip (by omega)]
    congr 1
    omega

/-- MemRead, byte by byte (R62): what a caller cites instead of unfolding `cellRange`. -/
theorem Memory.read_eq (m : Memory) (a n : Nat) :
    m.read a n = (List.range n).map fun i => m.byte (a + i) := cellRange_eq n m.cells a

@[simp] theorem Memory.length_read (m : Memory) (a n : Nat) : (m.read a n).length = n := by
  simp [Memory.read_eq]

theorem Memory.getD_read (m : Memory) (a n i : Nat) (d : Byte) (h : i < n) :
    (m.read a n).getD i d = m.byte (a + i) := by
  simp [Memory.read_eq, List.getD_eq_getElem?_getD, h]

@[simp] theorem Memory.read_zero (m : Memory) (a : Nat) : m.read a 0 = [] := rfl

theorem Memory.read_succ (m : Memory) (a n : Nat) : m.read a (n + 1) = m.byte a :: m.read (a + 1) n := by
  simp only [Memory.read_eq, List.range_succ_eq_map, List.map_cons, List.map_map, Nat.add_zero]
  congr 1
  refine List.map_congr_left fun i _ => ?_
  simp only [Function.comp_apply, Nat.succ_eq_add_one]
  congr 1
  omega

/-- A range is the range of its first part and the range of its second. -/
theorem Memory.read_add (m : Memory) (a n k : Nat) : m.read a (n + k) = m.read a n ++ m.read (a + n) k := by
  induction n generalizing a with
  | zero => simp
  | succ n ih =>
    rw [show n + 1 + k = (n + k) + 1 by omega, Memory.read_succ, Memory.read_succ, ih (a + 1)]
    simp [show a + 1 + n = a + (n + 1) by omega]

/-! ### Writing one byte -/

theorem cellSet_wf {len a : Nat} {v : Byte} (ha : a < len) :
    ∀ {lo : Nat} {cells : List Host.Cell}, lo ≤ a → cellsWf len lo cells = true →
      cellsWf len lo (cellSet cells a v) = true
  | lo, [], hlo, _ => by
    simp only [cellSet]
    split
    · rfl
    · rw [cellsWf_cons]; exact ⟨hlo, ha, by assumption, rfl⟩
  | lo, (b, w) :: rest, hlo, hw => by
    have hw' := hw
    rw [cellsWf_cons] at hw'
    obtain ⟨h1, h2, h3, h4⟩ := hw'
    simp only [cellSet]
    split
    · split
      · exact hw
      · rw [cellsWf_cons]
        refine ⟨hlo, ha, by assumption, ?_⟩
        rw [cellsWf_cons]
        exact ⟨by omega, h2, h3, h4⟩
    · split
      · split
        · exact cellsWf_mono (by omega) h4
        · rw [cellsWf_cons]
          exact ⟨hlo, ha, by assumption, cellsWf_mono (by omega) h4⟩
      · rw [cellsWf_cons]
        exact ⟨h1, h2, h3, cellSet_wf ha (by omega) h4⟩

/-- A read after a write of one byte: the byte written, and every other byte as before. -/
theorem cellGet_set {len a c : Nat} {v : Byte} :
    ∀ {lo : Nat} {cells : List Host.Cell}, cellsWf len lo cells = true →
      cellGet (cellSet cells a v) c = if c = a then v else cellGet cells c
  | lo, [], _ => by
    simp only [cellSet]
    by_cases hv : v = unlistedByte <;> by_cases hc : c = a <;> simp [cellGet, hv, hc]
    omega
  | lo, (b, w) :: rest, hw => by
    rw [cellsWf_cons] at hw
    obtain ⟨-, -, -, hr⟩ := hw
    simp only [cellSet]
    by_cases hab : a < b
    · rw [if_pos hab]
      by_cases hv : v = unlistedByte
      · rw [if_pos hv]
        by_cases hc : c = a
        · subst hc; simp [cellGet, hab, hv]
        · simp [hc]
      · rw [if_neg hv]
        by_cases hc : c = a
        · subst hc; simp [cellGet]
        · rw [if_neg hc]
          by_cases hca : c < a
          · simp [cellGet, hca, show c < b by omega]
          · simp [cellGet, hca, show ¬ a = c by omega]
    · rw [if_neg hab]
      by_cases hba : b = a
      · rw [if_pos hba]
        subst hba
        by_cases hv : v = unlistedByte
        · rw [if_pos hv]
          by_cases hc : c = b
          · subst hc
            rw [if_pos rfl, cellGet_below hr (by omega), hv]
          · rw [if_neg hc]
            by_cases hcb : c < b
            · rw [cellGet_below hr (by omega)]; simp [cellGet, hcb]
            · simp [cellGet, hcb, show ¬ b = c by omega]
        · rw [if_neg hv]
          by_cases hc : c = b
          · subst hc; simp [cellGet]
          · rw [if_neg hc]
            by_cases hcb : c < b
            · simp [cellGet, hcb]
            · simp [cellGet, hcb, show ¬ b = c by omega]
      · rw [if_neg hba]
        simp only [cellGet]
        by_cases hcb : c < b
        · simp [hcb, show ¬ c = a by omega]
        · rw [if_neg hcb, if_neg hcb]
          by_cases hbc : b = c
          · subst hbc; simp [hba]
          · rw [if_neg hbc, if_neg hbc]
            exact cellGet_set hr

/-! ### Writing a range -/

theorem cellSetAll_wf {len : Nat} :
    ∀ {bytes : List Byte} {cells : List Host.Cell} {a : Nat}, a + bytes.length ≤ len →
      cellsWf len 0 cells = true → cellsWf len 0 (cellSetAll cells a bytes) = true
  | [], _, _, _, hw => hw
  | v :: rest, cells, a, ha, hw => by
    simp only [List.length_cons] at ha
    have hw' : cellsWf len 0 (cellSet cells a v) = true := cellSet_wf (by omega) (Nat.zero_le a) hw
    exact cellSetAll_wf (bytes := rest) (by omega) hw'

theorem cellGet_setAll {len c : Nat} :
    ∀ {bytes : List Byte} {cells : List Host.Cell} {a : Nat}, a + bytes.length ≤ len →
      cellsWf len 0 cells = true →
      cellGet (cellSetAll cells a bytes) c =
        if a ≤ c ∧ c < a + bytes.length then bytes.getD (c - a) 0 else cellGet cells c
  | [], cells, a, _, _ => by
    simp [cellSetAll]
  | v :: rest, cells, a, ha, hw => by
    simp only [List.length_cons] at ha ⊢
    have hw' : cellsWf len 0 (cellSet cells a v) = true := cellSet_wf (by omega) (Nat.zero_le a) hw
    rw [cellSetAll, cellGet_setAll (by omega) hw', cellGet_set hw]
    by_cases h1 : c = a
    · subst h1; simp
    · by_cases h2 : a + 1 ≤ c ∧ c < a + 1 + rest.length
      · rw [if_pos h2, if_pos (by omega), show c - a = (c - (a + 1)) + 1 by omega]
        simp
      · rw [if_neg h2, if_neg h1, if_neg (by omega)]

/-- MemWrite keeps the canonical form (R64). -/
theorem Memory.write_wf {m : Memory} {a : Nat} {bytes : List Byte} (hw : m.wf = true)
    (h : a + bytes.length ≤ m.len) : (m.write a bytes).wf = true := cellSetAll_wf h hw

@[simp] theorem Memory.write_len (m : Memory) (a : Nat) (bytes : List Byte) :
    (m.write a bytes).len = m.len := rfl

/-- A read after a MemWrite (R64): the bytes written where they were written, every other byte as before. -/
theorem Memory.byte_write {m : Memory} {a : Nat} {bytes : List Byte} (hw : m.wf = true)
    (h : a + bytes.length ≤ m.len) (c : Nat) :
    (m.write a bytes).byte c =
      if a ≤ c ∧ c < a + bytes.length then bytes.getD (c - a) 0 else m.byte c := cellGet_setAll h hw

/-! ### Laying out a list -/

theorem cellsOf_wf : ∀ {bytes : List Byte} {a len : Nat}, a + bytes.length ≤ len →
    cellsWf len a (cellsOf a bytes) = true
  | [], _, _, _ => rfl
  | v :: rest, a, len, h => by
    simp only [List.length_cons] at h
    have hr : cellsWf len (a + 1) (cellsOf (a + 1) rest) = true := cellsOf_wf (by omega)
    simp only [cellsOf]
    split
    · exact cellsWf_mono (by omega) hr
    · rw [cellsWf_cons]
      exact ⟨le_refl a, by omega, by assumption, hr⟩

theorem cellGet_cellsOf : ∀ {bytes : List Byte} {a c : Nat}, a ≤ c →
    cellGet (cellsOf a bytes) c = bytes.getD (c - a) unlistedByte
  | [], _, _, _ => by simp [cellsOf, cellGet]
  | v :: rest, a, c, h => by
    have hr : cellsWf (a + 1 + rest.length) (a + 1) (cellsOf (a + 1) rest) = true := cellsOf_wf (by omega)
    simp only [cellsOf]
    by_cases hc : c = a
    · subst hc
      by_cases hv : v = unlistedByte
      · rw [if_pos hv, cellGet_below hr (by omega)]; simp [hv]
      · rw [if_neg hv]; simp [cellGet]
    · have hs : cellGet (cellsOf (a + 1) rest) c = rest.getD (c - (a + 1)) unlistedByte :=
        cellGet_cellsOf (by omega)
      rw [show c - a = (c - (a + 1)) + 1 by omega]
      by_cases hv : v = unlistedByte
      · rw [if_pos hv, hs]; simp
      · rw [if_neg hv]
        simp only [cellGet]
        rw [if_neg (by omega), if_neg (by omega), hs]
        simp

/-- A laid-out list is in canonical form. -/
theorem Memory.ofBytes_wf (bytes : List Byte) : (Memory.ofBytes bytes).wf = true :=
  cellsOf_wf (by simp [Memory.ofBytes])

@[simp] theorem Memory.ofBytes_len (bytes : List Byte) : (Memory.ofBytes bytes).len = bytes.length := rfl

/-- A laid-out list reads back byte by byte. -/
theorem Memory.byte_ofBytes (bytes : List Byte) (a : Nat) :
    (Memory.ofBytes bytes).byte a = bytes.getD a unlistedByte :=
  cellGet_cellsOf (bytes := bytes) (Nat.zero_le a)

/-- A laid-out list reads back whole. -/
theorem Memory.toBytes_ofBytes (bytes : List Byte) : (Memory.ofBytes bytes).toBytes = bytes := by
  rw [Memory.toBytes, Memory.read_eq]
  apply List.ext_getElem
  · simp
  · intro i h1 h2
    simp [Memory.byte_ofBytes, h2]

/-- A zero-filled buffer is in canonical form (R230). -/
theorem Memory.zeros_wf (n : Nat) : (Memory.zeros n).wf = true := rfl

@[simp] theorem Memory.zeros_len (n : Nat) : (Memory.zeros n).len = n := rfl

@[simp] theorem Memory.byte_zeros (n a : Nat) : (Memory.zeros n).byte a = 0 := rfl

/-! ### Equal buffers are equal data -/

theorem cells_ext {len : Nat} :
    ∀ {lo : Nat} {c d : List Host.Cell}, cellsWf len lo c = true → cellsWf len lo d = true →
      (∀ a, lo ≤ a → cellGet c a = cellGet d a) → c = d
  | _, [], [], _, _, _ => rfl
  | lo, [], (b, v) :: rest, _, hd, h => by
    rw [cellsWf_cons] at hd
    have := h b hd.1
    simp [cellGet] at this
    exact absurd this.symm hd.2.2.1
  | lo, (b, v) :: rest, [], hc, _, h => by
    rw [cellsWf_cons] at hc
    have := h b hc.1
    simp [cellGet] at this
    exact absurd this hc.2.2.1
  | lo, (b, v) :: rest, (b', v') :: rest', hc, hd, h => by
    rw [cellsWf_cons] at hc hd
    obtain ⟨h1, h2, h3, h4⟩ := hc
    obtain ⟨k1, k2, k3, k4⟩ := hd
    have hbb : b = b' := by
      rcases Nat.lt_trichotomy b b' with hlt | heq | hgt
      · have := h b h1
        simp [cellGet, hlt] at this
        exact absurd this h3
      · exact heq
      · have := h b' k1
        simp [cellGet, hgt] at this
        exact absurd this.symm k3
    subst hbb
    have hv : v = v' := by simpa [cellGet] using h b h1
    subst hv
    have hrest : rest = rest' := by
      refine cells_ext h4 k4 fun a ha => ?_
      have := h a (by omega)
      simpa [cellGet, show ¬ a < b by omega, show ¬ b = a by omega] using this
    rw [hrest]

/-- Two canonical buffers of one length whose bytes agree are equal. -/
theorem Memory.ext_bytes {m k : Memory} (hm : m.wf = true) (hk : k.wf = true) (hlen : m.len = k.len)
    (h : ∀ a, a < m.len → m.byte a = k.byte a) : m = k := by
  obtain ⟨n, c⟩ := m
  obtain ⟨n', d⟩ := k
  simp only at hlen
  subst hlen
  congr 1
  refine cells_ext (lo := 0) hm hk fun a _ => ?_
  by_cases ha : a < n
  · exact h a ha
  · have h1 := cellGet_beyond (show n ≤ a by omega) hm
    have h2 := cellGet_beyond (show n ≤ a by omega) hk
    simp only at h1 h2
    rw [h1, h2]

/-- A canonical buffer is the layout of its own bytes. -/
theorem Memory.ofBytes_toBytes {m : Memory} (hw : m.wf = true) : Memory.ofBytes m.toBytes = m := by
  refine Memory.ext_bytes (Memory.ofBytes_wf _) hw (by simp [Memory.toBytes]) fun a ha => ?_
  have ha' : a < m.len := by simpa [Memory.toBytes] using ha
  rw [Memory.byte_ofBytes, Memory.toBytes, Memory.getD_read _ _ _ _ _ ha', Nat.zero_add]

end Sys2Proof.Machine
end

