-- ==== Sys2Proof/Laws/PerInstr.lean ====
section
/-! SUPPORT. One lemma per command for each family of statements about the command as syntax. -/

namespace Sys2Proof.Laws.OpcodeRoundTrip

/-- The decoder reads a command's own opcode byte as that command, and leaves the bytes after it (R80, R81). -/
def Statement (i : Instr) : Prop := ∀ rest, decode (encode i ++ rest) = .ok (i, rest)

theorem nop : Statement .nop := fun _ => rfl
theorem clr : Statement .clr := fun _ => rfl
theorem crcClr : Statement .crcClr := fun _ => rfl
theorem crcUpd : Statement .crcUpd := fun _ => rfl
theorem crcRd : Statement .crcRd := fun _ => rfl
theorem crcRange : Statement .crcRange := fun _ => rfl
theorem fxBe : Statement .fxBe := fun _ => rfl
theorem fxRev32 : Statement .fxRev32 := fun _ => rfl
theorem fxBits : Statement .fxBits := fun _ => rfl
theorem pkBe : Statement .pkBe := fun _ => rfl
theorem pkRev32 : Statement .pkRev32 := fun _ => rfl
theorem pkBits : Statement .pkBits := fun _ => rfl
theorem parseSptp : Statement .parseSptp := fun _ => rfl
theorem parseIcd : Statement .parseIcd := fun _ => rfl
theorem parseTm : Statement .parseTm := fun _ => rfl
theorem parseTk : Statement .parseTk := fun _ => rfl
theorem parseObt : Statement .parseObt := fun _ => rfl
theorem parseHsi : Statement .parseHsi := fun _ => rfl
theorem parseTc : Statement .parseTc := fun _ => rfl
theorem buildSptp : Statement .buildSptp := fun _ => rfl
theorem buildTk : Statement .buildTk := fun _ => rfl
theorem obNew : Statement .obNew := fun _ => rfl

end Sys2Proof.Laws.OpcodeRoundTrip
end

