-- ==== Sys2Proof/Laws/Run.lean ====
section
/-! SUPPORT. How a run of several steps is taken apart. -/

namespace Sys2Proof.Machine

theorem core_run_succ (M : Host.Core) {s u : M.State} (n : Nat) (h : M.step s = .next u) :
    M.run (n + 1) s = M.run n u := by
  rw [Host.Core.run, h]

/-- A run begins with one step. -/
theorem run_step {s u : State} (n : Nat) (h : step s = .next u) :
    Host.Core.run Sys2Proof.core (n + 1) s = Host.Core.run Sys2Proof.core n u :=
  core_run_succ Sys2Proof.core n h

theorem core_run_inv (M : Host.Core) {s t : M.State} (n : Nat) (h : M.run (n + 1) s = .next t) :
    ∃ u, M.step s = .next u ∧ M.run n u = .next t := by
  rw [Host.Core.run] at h
  split at h
  · exact ⟨_, by assumption, h⟩
  · cases h
  · cases h

/-- A run that ends in a next state took a first step. -/
theorem run_inv {s t : State} (n : Nat) (h : Host.Core.run Sys2Proof.core (n + 1) s = .next t) :
    ∃ u, step s = .next u ∧ Host.Core.run Sys2Proof.core n u = .next t :=
  core_run_inv Sys2Proof.core n h

theorem core_run_add (M : Host.Core) (n k : Nat) :
    ∀ s t : M.State, M.run n s = .next t → M.run (n + k) s = M.run k t := by
  induction n with
  | zero => intro s t h; cases h; simp
  | succ n ih =>
    intro s t h
    obtain ⟨u, h1, h2⟩ := core_run_inv M n h
    rw [show n + 1 + k = n + k + 1 by omega, core_run_succ M _ h1, ih _ _ h2]

/-- A run is the run of its first part, then of the rest from where that ended. -/
theorem run_add {n : Nat} (k : Nat) {s t : State} (h : Host.Core.run Sys2Proof.core n s = .next t) :
    Host.Core.run Sys2Proof.core (n + k) s = Host.Core.run Sys2Proof.core k t :=
  core_run_add Sys2Proof.core n k s t h

end Sys2Proof.Machine
end

