-- ==== Sys2Proof/Laws/State.lean ====
section
/-! SUPPORT. One lemma per field of State for each named update, so that no later proof unfolds a record update. -/

namespace Sys2Proof.Machine

variable (s : State)

/-! ### succeed -/

@[simp] theorem succeed_cfg : (succeed s).cfg = s.cfg := rfl
@[simp] theorem succeed_arg0 : (succeed s).arg0 = s.arg0 := rfl
@[simp] theorem succeed_arg1 : (succeed s).arg1 = s.arg1 := rfl
@[simp] theorem succeed_arg2 : (succeed s).arg2 = s.arg2 := rfl
@[simp] theorem succeed_arg3 : (succeed s).arg3 = s.arg3 := rfl
@[simp] theorem succeed_res : (succeed s).res = s.res := rfl
@[simp] theorem succeed_err : (succeed s).err = .ok := rfl
@[simp] theorem succeed_sticky : (succeed s).sticky = s.sticky := rfl
@[simp] theorem succeed_busy : (succeed s).busy = s.busy := rfl
@[simp] theorem succeed_crcAcc : (succeed s).crcAcc = s.crcAcc := rfl
@[simp] theorem succeed_frame : (succeed s).frame = s.frame := rfl
@[simp] theorem succeed_ob : (succeed s).ob = s.ob := rfl
@[simp] theorem succeed_ib : (succeed s).ib = s.ib := rfl
@[simp] theorem succeed_hid : (succeed s).hid = s.hid := rfl
@[simp] theorem succeed_pending : (succeed s).pending = s.pending := rfl
@[simp] theorem succeed_replies : (succeed s).replies = s.replies := rfl

/-! ### raiseErr: what no error changes, and what every error writes -/

@[simp] theorem raiseErr_cfg (d : DestGroup) (c : Err) : (raiseErr d c s).cfg = s.cfg := by
  cases d <;> rfl
@[simp] theorem raiseErr_arg0 (d : DestGroup) (c : Err) : (raiseErr d c s).arg0 = s.arg0 := by
  cases d <;> rfl
@[simp] theorem raiseErr_arg1 (d : DestGroup) (c : Err) : (raiseErr d c s).arg1 = s.arg1 := by
  cases d <;> rfl
@[simp] theorem raiseErr_arg2 (d : DestGroup) (c : Err) : (raiseErr d c s).arg2 = s.arg2 := by
  cases d <;> rfl
@[simp] theorem raiseErr_arg3 (d : DestGroup) (c : Err) : (raiseErr d c s).arg3 = s.arg3 := by
  cases d <;> rfl
@[simp] theorem raiseErr_err (d : DestGroup) (c : Err) : (raiseErr d c s).err = c := by
  cases d <;> rfl
@[simp] theorem raiseErr_sticky (d : DestGroup) (c : Err) : (raiseErr d c s).sticky = true := by
  cases d <;> rfl
@[simp] theorem raiseErr_busy (d : DestGroup) (c : Err) : (raiseErr d c s).busy = s.busy := by
  cases d <;> rfl
@[simp] theorem raiseErr_crcAcc (d : DestGroup) (c : Err) : (raiseErr d c s).crcAcc = s.crcAcc := by
  cases d <;> rfl
@[simp] theorem raiseErr_ib (d : DestGroup) (c : Err) : (raiseErr d c s).ib = s.ib := by
  cases d <;> rfl
@[simp] theorem raiseErr_hid (d : DestGroup) (c : Err) : (raiseErr d c s).hid = s.hid := by
  cases d <;> rfl
@[simp] theorem raiseErr_pending (d : DestGroup) (c : Err) : (raiseErr d c s).pending = s.pending := by
  cases d <;> rfl
@[simp] theorem raiseErr_replies (d : DestGroup) (c : Err) : (raiseErr d c s).replies = s.replies := by
  cases d <;> rfl

/-! ### raiseErr: the destination groups -/

@[simp] theorem raiseErr_nothing_res (c : Err) : (raiseErr .nothing c s).res = s.res := rfl
@[simp] theorem raiseErr_nothing_frame (c : Err) : (raiseErr .nothing c s).frame = s.frame := rfl
@[simp] theorem raiseErr_nothing_ob (c : Err) : (raiseErr .nothing c s).ob = s.ob := rfl
@[simp] theorem raiseErr_result_res (c : Err) : (raiseErr .result c s).res = 0 := rfl
@[simp] theorem raiseErr_result_frame (c : Err) : (raiseErr .result c s).frame = s.frame := rfl
@[simp] theorem raiseErr_result_ob (c : Err) : (raiseErr .result c s).ob = s.ob := rfl
@[simp] theorem raiseErr_frameRegs_res (c : Err) : (raiseErr .frameRegs c s).res = s.res := rfl
@[simp] theorem raiseErr_frameRegs_frame (c : Err) : (raiseErr .frameRegs c s).frame = none := rfl
@[simp] theorem raiseErr_frameRegs_ob (c : Err) : (raiseErr .frameRegs c s).ob = s.ob := rfl
@[simp] theorem raiseErr_outputBuffer_res (c : Err) : (raiseErr .outputBuffer c s).res = s.res := rfl
@[simp] theorem raiseErr_outputBuffer_frame (c : Err) : (raiseErr .outputBuffer c s).frame = s.frame := rfl
@[simp] theorem raiseErr_outputBuffer_ob (c : Err) : (raiseErr .outputBuffer c s).ob = none := rfl

/-! ### commitFrame -/

@[simp] theorem commitFrame_cfg (f : Frame) (h : Hidden) : (commitFrame f h s).cfg = s.cfg := rfl
@[simp] theorem commitFrame_arg0 (f : Frame) (h : Hidden) : (commitFrame f h s).arg0 = s.arg0 := rfl
@[simp] theorem commitFrame_arg1 (f : Frame) (h : Hidden) : (commitFrame f h s).arg1 = s.arg1 := rfl
@[simp] theorem commitFrame_arg2 (f : Frame) (h : Hidden) : (commitFrame f h s).arg2 = s.arg2 := rfl
@[simp] theorem commitFrame_arg3 (f : Frame) (h : Hidden) : (commitFrame f h s).arg3 = s.arg3 := rfl
@[simp] theorem commitFrame_res (f : Frame) (h : Hidden) : (commitFrame f h s).res = s.res := rfl
@[simp] theorem commitFrame_err (f : Frame) (h : Hidden) : (commitFrame f h s).err = .ok := rfl
@[simp] theorem commitFrame_sticky (f : Frame) (h : Hidden) : (commitFrame f h s).sticky = s.sticky := rfl
@[simp] theorem commitFrame_busy (f : Frame) (h : Hidden) : (commitFrame f h s).busy = false := rfl
@[simp] theorem commitFrame_crcAcc (f : Frame) (h : Hidden) : (commitFrame f h s).crcAcc = s.crcAcc := rfl
@[simp] theorem commitFrame_frame (f : Frame) (h : Hidden) : (commitFrame f h s).frame = some f := rfl
@[simp] theorem commitFrame_ob (f : Frame) (h : Hidden) : (commitFrame f h s).ob = s.ob := rfl
@[simp] theorem commitFrame_ib (f : Frame) (h : Hidden) : (commitFrame f h s).ib = s.ib := rfl
@[simp] theorem commitFrame_hid (f : Frame) (h : Hidden) : (commitFrame f h s).hid = h := rfl
@[simp] theorem commitFrame_pending (f : Frame) (h : Hidden) : (commitFrame f h s).pending = s.pending := rfl
@[simp] theorem commitFrame_replies (f : Frame) (h : Hidden) : (commitFrame f h s).replies = s.replies := rfl

/-! ### failParse -/

@[simp] theorem failParse_cfg (k : FrameKind) (e : Err) : (failParse k e s).cfg = s.cfg := rfl
@[simp] theorem failParse_arg0 (k : FrameKind) (e : Err) : (failParse k e s).arg0 = s.arg0 := rfl
@[simp] theorem failParse_arg1 (k : FrameKind) (e : Err) : (failParse k e s).arg1 = s.arg1 := rfl
@[simp] theorem failParse_arg2 (k : FrameKind) (e : Err) : (failParse k e s).arg2 = s.arg2 := rfl
@[simp] theorem failParse_arg3 (k : FrameKind) (e : Err) : (failParse k e s).arg3 = s.arg3 := rfl
@[simp] theorem failParse_res (k : FrameKind) (e : Err) : (failParse k e s).res = s.res := rfl
@[simp] theorem failParse_err (k : FrameKind) (e : Err) : (failParse k e s).err = e := rfl
@[simp] theorem failParse_sticky (k : FrameKind) (e : Err) : (failParse k e s).sticky = true := rfl
@[simp] theorem failParse_busy (k : FrameKind) (e : Err) : (failParse k e s).busy = false := rfl
@[simp] theorem failParse_crcAcc (k : FrameKind) (e : Err) : (failParse k e s).crcAcc = s.crcAcc := rfl
@[simp] theorem failParse_frame (k : FrameKind) (e : Err) : (failParse k e s).frame = none := rfl
@[simp] theorem failParse_ob (k : FrameKind) (e : Err) : (failParse k e s).ob = s.ob := rfl
@[simp] theorem failParse_ib (k : FrameKind) (e : Err) : (failParse k e s).ib = s.ib := rfl
@[simp] theorem failParse_hid (k : FrameKind) (e : Err) : (failParse k e s).hid = hiddenAfterFail k e s.hid := rfl
@[simp] theorem failParse_pending (k : FrameKind) (e : Err) : (failParse k e s).pending = s.pending := rfl
@[simp] theorem failParse_replies (k : FrameKind) (e : Err) : (failParse k e s).replies = s.replies := rfl

/-! ### Host actions -/

@[simp] theorem hostLoadAbsent_cfg : (hostLoadAbsent s).cfg = s.cfg := rfl
@[simp] theorem hostLoadAbsent_arg0 : (hostLoadAbsent s).arg0 = s.arg0 := rfl
@[simp] theorem hostLoadAbsent_arg1 : (hostLoadAbsent s).arg1 = s.arg1 := rfl
@[simp] theorem hostLoadAbsent_arg2 : (hostLoadAbsent s).arg2 = s.arg2 := rfl
@[simp] theorem hostLoadAbsent_arg3 : (hostLoadAbsent s).arg3 = s.arg3 := rfl
@[simp] theorem hostLoadAbsent_res : (hostLoadAbsent s).res = s.res := rfl
@[simp] theorem hostLoadAbsent_err : (hostLoadAbsent s).err = s.err := rfl
@[simp] theorem hostLoadAbsent_sticky : (hostLoadAbsent s).sticky = s.sticky := rfl
@[simp] theorem hostLoadAbsent_busy : (hostLoadAbsent s).busy = s.busy := rfl
@[simp] theorem hostLoadAbsent_crcAcc : (hostLoadAbsent s).crcAcc = s.crcAcc := rfl
@[simp] theorem hostLoadAbsent_frame : (hostLoadAbsent s).frame = none := rfl
@[simp] theorem hostLoadAbsent_ob : (hostLoadAbsent s).ob = s.ob := rfl
@[simp] theorem hostLoadAbsent_ib : (hostLoadAbsent s).ib = none := rfl
@[simp] theorem hostLoadAbsent_hid : (hostLoadAbsent s).hid = s.hid := rfl
@[simp] theorem hostLoadAbsent_pending : (hostLoadAbsent s).pending = s.pending := rfl
@[simp] theorem hostLoadAbsent_replies : (hostLoadAbsent s).replies = s.replies := rfl
@[simp] theorem hostRead_cfg (off : Nat) : (hostRead off s).cfg = s.cfg := rfl
@[simp] theorem hostRead_arg0 (off : Nat) : (hostRead off s).arg0 = s.arg0 := rfl
@[simp] theorem hostRead_arg1 (off : Nat) : (hostRead off s).arg1 = s.arg1 := rfl
@[simp] theorem hostRead_arg2 (off : Nat) : (hostRead off s).arg2 = s.arg2 := rfl
@[simp] theorem hostRead_arg3 (off : Nat) : (hostRead off s).arg3 = s.arg3 := rfl
@[simp] theorem hostRead_res (off : Nat) : (hostRead off s).res = s.res := rfl
@[simp] theorem hostRead_err (off : Nat) : (hostRead off s).err = s.err := rfl
@[simp] theorem hostRead_sticky (off : Nat) : (hostRead off s).sticky = s.sticky := rfl
@[simp] theorem hostRead_busy (off : Nat) : (hostRead off s).busy = s.busy := rfl
@[simp] theorem hostRead_crcAcc (off : Nat) : (hostRead off s).crcAcc = s.crcAcc := rfl
@[simp] theorem hostRead_frame (off : Nat) : (hostRead off s).frame = s.frame := rfl
@[simp] theorem hostRead_ob (off : Nat) : (hostRead off s).ob = s.ob := rfl
@[simp] theorem hostRead_ib (off : Nat) : (hostRead off s).ib = s.ib := rfl
@[simp] theorem hostRead_hid (off : Nat) : (hostRead off s).hid = s.hid := rfl
@[simp] theorem hostRead_pending (off : Nat) : (hostRead off s).pending = s.pending := rfl
@[simp] theorem hostRead_replies (off : Nat) : (hostRead off s).replies = s.replies ++ [.word (s.readOffset off)] := rfl
@[simp] theorem hostReadOb_cfg (i : Nat) : (hostReadOb i s).cfg = s.cfg := rfl
@[simp] theorem hostReadOb_arg0 (i : Nat) : (hostReadOb i s).arg0 = s.arg0 := rfl
@[simp] theorem hostReadOb_arg1 (i : Nat) : (hostReadOb i s).arg1 = s.arg1 := rfl
@[simp] theorem hostReadOb_arg2 (i : Nat) : (hostReadOb i s).arg2 = s.arg2 := rfl
@[simp] theorem hostReadOb_arg3 (i : Nat) : (hostReadOb i s).arg3 = s.arg3 := rfl
@[simp] theorem hostReadOb_res (i : Nat) : (hostReadOb i s).res = s.res := rfl
@[simp] theorem hostReadOb_err (i : Nat) : (hostReadOb i s).err = s.err := rfl
@[simp] theorem hostReadOb_sticky (i : Nat) : (hostReadOb i s).sticky = s.sticky := rfl
@[simp] theorem hostReadOb_busy (i : Nat) : (hostReadOb i s).busy = s.busy := rfl
@[simp] theorem hostReadOb_crcAcc (i : Nat) : (hostReadOb i s).crcAcc = s.crcAcc := rfl
@[simp] theorem hostReadOb_frame (i : Nat) : (hostReadOb i s).frame = s.frame := rfl
@[simp] theorem hostReadOb_ob (i : Nat) : (hostReadOb i s).ob = s.ob := rfl
@[simp] theorem hostReadOb_ib (i : Nat) : (hostReadOb i s).ib = s.ib := rfl
@[simp] theorem hostReadOb_hid (i : Nat) : (hostReadOb i s).hid = s.hid := rfl
@[simp] theorem hostReadOb_pending (i : Nat) : (hostReadOb i s).pending = s.pending := rfl
@[simp] theorem hostReadOb_replies (i : Nat) : (hostReadOb i s).replies = s.replies ++ [.byte (s.readOb i)] := rfl
@[simp] theorem hostReset_cfg : (hostReset s).cfg = s.cfg := rfl
@[simp] theorem hostReset_arg0 : (hostReset s).arg0 = 0 := rfl
@[simp] theorem hostReset_arg1 : (hostReset s).arg1 = 0 := rfl
@[simp] theorem hostReset_arg2 : (hostReset s).arg2 = 0 := rfl
@[simp] theorem hostReset_arg3 : (hostReset s).arg3 = 0 := rfl
@[simp] theorem hostReset_res : (hostReset s).res = 0 := rfl
@[simp] theorem hostReset_err : (hostReset s).err = .ok := rfl
@[simp] theorem hostReset_sticky : (hostReset s).sticky = false := rfl
@[simp] theorem hostReset_busy : (hostReset s).busy = false := rfl
@[simp] theorem hostReset_crcAcc : (hostReset s).crcAcc = s.cfg.crcInit := rfl
@[simp] theorem hostReset_frame : (hostReset s).frame = none := rfl
@[simp] theorem hostReset_ob : (hostReset s).ob = none := rfl
@[simp] theorem hostReset_ib : (hostReset s).ib = none := rfl
@[simp] theorem hostReset_hid : (hostReset s).hid = Hidden.reset := rfl
@[simp] theorem hostReset_pending : (hostReset s).pending = s.pending := rfl
@[simp] theorem hostReset_replies : (hostReset s).replies = s.replies := rfl

/-! ### Hidden registers -/

@[simp] theorem hiddenAfterCommit_pstate (k : FrameKind) (n : Nat) (bs : List Byte) (crc : Half) (h : Hidden) :
    (hiddenAfterCommit k n bs crc h).pstate = .idle := rfl
@[simp] theorem hiddenAfterCommit_pkind (k : FrameKind) (n : Nat) (bs : List Byte) (crc : Half) (h : Hidden) :
    (hiddenAfterCommit k n bs crc h).pkind = some k := rfl
@[simp] theorem hiddenAfterCommit_perr (k : FrameKind) (n : Nat) (bs : List Byte) (crc : Half) (h : Hidden) :
    (hiddenAfterCommit k n bs crc h).perr = h.perr := rfl
@[simp] theorem hiddenAfterCommit_pos (k : FrameKind) (n : Nat) (bs : List Byte) (crc : Half) (h : Hidden) :
    (hiddenAfterCommit k n bs crc h).pos = BitVec.ofNat 32 n := rfl
@[simp] theorem hiddenAfterCommit_sh (k : FrameKind) (n : Nat) (bs : List Byte) (crc : Half) (h : Hidden) :
    (hiddenAfterCommit k n bs crc h).sh = captureSlots bs h.sh := rfl
@[simp] theorem hiddenAfterCommit_crcWork (k : FrameKind) (n : Nat) (bs : List Byte) (crc : Half) (h : Hidden) :
    (hiddenAfterCommit k n bs crc h).crcWork = crc := rfl
@[simp] theorem hiddenAfterFail_pstate (k : FrameKind) (e : Err) (h : Hidden) :
    (hiddenAfterFail k e h).pstate = .idle := rfl
@[simp] theorem hiddenAfterFail_pkind (k : FrameKind) (e : Err) (h : Hidden) :
    (hiddenAfterFail k e h).pkind = some k := rfl
@[simp] theorem hiddenAfterFail_perr (k : FrameKind) (e : Err) (h : Hidden) :
    (hiddenAfterFail k e h).perr = e := rfl
@[simp] theorem hiddenAfterFail_pos (k : FrameKind) (e : Err) (h : Hidden) :
    (hiddenAfterFail k e h).pos = 0 := rfl
@[simp] theorem hiddenAfterFail_sh (k : FrameKind) (e : Err) (h : Hidden) :
    (hiddenAfterFail k e h).sh = h.sh := rfl
@[simp] theorem hiddenAfterFail_crcWork (k : FrameKind) (e : Err) (h : Hidden) :
    (hiddenAfterFail k e h).crcWork = h.crcWork := rfl

end Sys2Proof.Machine
end

