-- ==== Sys2Proof/Tests/Slice0.lean ====
section
/-! SUPPORT. Tests: the words of the opcode table, the well-formedness checks on ill-formed terms, the vectors of
95_test_vectors.md (each test names its own), and for every obligation with hypotheses a state that meets them. The
expected values are the spec's. -/

namespace Sys2Proof.Tests

open Sys2Proof.Machine

/-! ### Well-formedness: each check refuses an ill-formed binding -/

/-- R9: equal ProtocolIds. -/
theorem test_wf_refuses_equal_pids :
    ({ Config.default with pidStandard := 0x03 } : Config).pidsDiffer = false ∧
      ({ Config.default with pidStandard := 0x03 } : Config).wf = false := by decide

/-- R9: IB_MAX below 65540, and above 2^32 - 1. -/
theorem test_wf_refuses_ibMax :
    ({ Config.default with ibMax := 65539 } : Config).wf = false ∧
      ({ Config.default with ibMax := 2 ^ 32 } : Config).ibMaxOk = false ∧
      ({ Config.default with ibMax := 2 ^ 32 } : Config).wf = false := by decide

/-- R9: OB_MAX below 18, and above 2^32 - 1. -/
theorem test_wf_refuses_obMax :
    ({ Config.default with obMax := 17 } : Config).wf = false ∧
      ({ Config.default with obMax := 2 ^ 32 } : Config).obMaxOk = false ∧
      ({ Config.default with obMax := 2 ^ 32 } : Config).wf = false := by decide

/-- R9: the bounds themselves are legal, and so is the default binding. -/
theorem test_wf_accepts_bounds :
    Config.default.wf = true ∧ ({ Config.default with ibMax := 65540, obMax := 18 } : Config).wf = true := by
  decide

/-- A buffer whose cells fall, name an address beyond its length, or list the unlisted byte is not canonical. -/
theorem test_memory_wf_refuses :
    Memory.wf ⟨4, [(2, 1), (1, 1)]⟩ = false ∧ Memory.wf ⟨4, [(4, 1)]⟩ = false ∧ Memory.wf ⟨4, [(1, 0)]⟩ = false ∧
      Memory.wf ⟨4, [(1, 1), (1, 2)]⟩ = false ∧ Memory.wf ⟨4, [(0, 9), (3, 1)]⟩ = true := by decide

/-! ### Decoding: the words of 30_encoding.md R81, bit by bit -/

theorem test_decode_system :
    decode [0b0000_0000] = .ok (.nop, []) ∧ decode [0b0000_0001] = .ok (.clr, []) := by decide

theorem test_decode_crc :
    decode [0b0001_0000] = .ok (.crcClr, []) ∧ decode [0b0001_0001] = .ok (.crcUpd, []) ∧
      decode [0b0001_0010] = .ok (.crcRd, []) ∧ decode [0b0001_0011] = .ok (.crcRange, []) := by decide

theorem test_decode_extract :
    decode [0b0010_0000] = .ok (.fxBe, []) ∧ decode [0b0010_0001] = .ok (.fxRev32, []) ∧
      decode [0b0010_0010] = .ok (.fxBits, []) := by decide

theorem test_decode_pack :
    decode [0b0010_1000] = .ok (.pkBe, []) ∧ decode [0b0010_1001] = .ok (.pkRev32, []) ∧
      decode [0b0010_1010] = .ok (.pkBits, []) := by decide

theorem test_decode_parse :
    decode [0b0011_0000] = .ok (.parseSptp, []) ∧ decode [0b0011_0001] = .ok (.parseIcd, []) ∧
      decode [0b0011_0010] = .ok (.parseTm, []) ∧ decode [0b0011_0011] = .ok (.parseTk, []) ∧
      decode [0b0011_0100] = .ok (.parseObt, []) ∧ decode [0b0011_0101] = .ok (.parseHsi, []) ∧
      decode [0b0011_0110] = .ok (.parseTc, []) := by decide

theorem test_decode_build :
    decode [0b0100_0000] = .ok (.buildSptp, []) ∧ decode [0b0100_0001] = .ok (.buildTk, []) ∧
      decode [0b0100_1000] = .ok (.obNew, []) := by decide

/-- R87: an unassigned opcode is refused by name, the neighbours of the families among them. -/
theorem test_decode_reserved :
    decode [0x02] = .error (.reserved 0x02) ∧ decode [0x23] = .error (.reserved 0x23) ∧
      decode [0x37] = .error (.reserved 0x37) ∧ decode [0xFF] = .error (.reserved 0xFF) ∧
      decode [] = .error .noOpcode := by decide

/-- The words of the table's rows, and the first step after reset that runs one. -/
theorem test_table_words :
    decodeTableWord 8 0x2A = some .pkBits ∧ decodeTableWord 8 0x49 = none ∧
      step (State.reset.withFetchWord 8 0x30) = exec .parseSptp State.reset := by
  refine ⟨by decide, by decide, rfl⟩

/-! ### Small states -/

/-- TM16 of 95_test_vectors.md. -/
def tm16 : List Byte :=
  [0x10, 0x03, 0x00, 0x20, 0x08, 0x64, 0xC0, 0x05, 0x00, 0x00, 0xDE, 0xAD, 0xBE, 0xEF, 0x79, 0x19]

/-- TM19 of 95_test_vectors.md. -/
def tm19 : List Byte :=
  [0x10, 0x03, 0x00, 0x20, 0x08, 0x64, 0xC0, 0x06, 0x00, 0x03] ++
  [0xDE, 0xAD, 0xBE, 0xEF, 0xAA, 0xBB, 0xCC, 0x26, 0xA2]

/-- O1 of 95_test_vectors.md. -/
def obt16 : List Byte :=
  [0x10, 0x03, 0x00, 0x20, 0x08, 0x64, 0xC0, 0x07, 0x00, 0x06] ++ [0x01, 0x02, 0x78, 0x56, 0x34, 0x12]

/-- The state after reset with an input buffer and operands. -/
def onInput (bytes : Option (List Byte)) (a0 a1 a2 : Word) : State :=
  { State.reset with ib := bytes.map Memory.ofBytes, arg0 := a0, arg1 := a1, arg2 := a2 }

/-- The state after reset with an output buffer and operands. -/
def onOutput (bytes : Option (List Byte)) (a0 a1 a2 : Word) : State :=
  { State.reset with ob := bytes.map Memory.ofBytes, arg0 := a0, arg1 := a1, arg2 := a2 }

/-- What a command leaves, seen through a projection. -/
def seen {α : Type} (i : Instr) (s : State) (view : State → α) : Option α := (nextState? (exec i s)).map view

/-- RES and STATUS. -/
def resStatus (s : State) : Word × Word := (s.res, s.statusWord)

/-- The bytes of OB, and STATUS. -/
def obStatus (s : State) : Option (List Byte) × Word := (s.ob.map Memory.toBytes, s.statusWord)

/-- The words the host reads at some offsets. -/
def readAll (offsets : List Nat) (s : State) : List Word := offsets.map s.readOffset

/-! ### One step of each command, from the vectors of 95_test_vectors.md -/

/-- P6 line 18, with the IB of line 6. -/
theorem test_nop_P6 :
    seen .nop { onInput (some []) 0 0 0 with err := .outOfRange, sticky := true } resStatus =
      some (0, 0x208) := by decide

/-- P6 line 24: STATUS is 0x200 with a buffer presented, CRC_ACC is CRC_INIT. -/
theorem test_clr_P6 :
    seen .clr { onInput (some [0x2A]) 1 2 3 with err := .outOfRange, sticky := true, crcAcc := 5 }
      (fun s => (s.statusWord, s.crcAcc, s.arg0, s.ibLen)) = some (0x200, 0xFFFF, 0, 1) := by decide

/-- K4. -/
theorem test_crcClr_K4 :
    seen .crcClr { State.reset with crcAcc := 0x3DBA, res := 7 } (fun s => (s.crcAcc, s.res)) =
      some (0xFFFF, 7) := by decide

/-- K2 (only ARG0[7:0] is read) and K3. -/
theorem test_crcUpd_K2_K3 :
    seen .crcUpd (onInput none 0x131 0 0) (fun s => s.crcAcc) = some 0xC782 ∧
      seen .crcUpd { onInput none 0x32 0 0 with crcAcc := 0xC782 } (fun s => s.crcAcc) = some 0x3DBA := by decide

/-- K5. -/
theorem test_crcRd_K5 :
    seen .crcRd { State.reset with crcAcc := 0xE1F0 } (fun s => (s.res, s.crcAcc)) = some (0xE1F0, 0xE1F0) := by
  decide

/-- K10. -/
theorem test_crcRange_K10 : seen .crcRange (onInput (some tm19) 4 13 0) resStatus = some (0x26A2, 0x200) := by decide +kernel

/-- K6, K9, K12, K14: no buffer, an empty range beyond the end, an empty range at the end, a sum past 2^32. -/
theorem test_crcRange_bounds :
    seen .crcRange (onInput none 0 0 0) resStatus = some (0, 0x009) ∧
      seen .crcRange (onInput (some []) 1 0 0) resStatus = some (0, 0x20C) ∧
      seen .crcRange (onInput (some tm19) 19 0 0) resStatus = some (0xFFFF, 0x200) ∧
      seen .crcRange (onInput (some tm19) 0xFFFFFFFF 1 0) resStatus = some (0, 0x20C) := by decide

/-- X8, and X22 (junk in the unused bits of ARG1). -/
theorem test_fxBe_X8_X22 :
    seen .fxBe (onInput (some tm19) 10 4 0) resStatus = some (0xDEADBEEF, 0x200) ∧
      seen .fxBe (onInput (some tm19) 4 0xFFFFFF03 0) resStatus = some (0x000864C0, 0x200) := by decide

/-- X11, X12, X20, X23, X24. -/
theorem test_fxBe_bounds :
    seen .fxBe (onInput (some tm19) 17 2 0) resStatus = some (0x26A2, 0x200) ∧
      seen .fxBe (onInput (some tm19) 18 2 0) resStatus = some (0, 0x20C) ∧
      seen .fxBe (onInput (some tm19) 4 0 0) resStatus = some (0, 0x20D) ∧
      seen .fxBe (onInput none 0 5 0) resStatus = some (0, 0x00D) ∧
      seen .fxBe (onInput none 0 1 0) resStatus = some (0, 0x009) := by decide

/-- X10 and X14. -/
theorem test_fxRev32_X10_X14 :
    seen .fxRev32 (onInput (some tm19) 10 0 0) resStatus = some (0xEFBEADDE, 0x200) ∧
      seen .fxRev32 (onInput (some tm19) 15 0 0) resStatus = some (0xA226CCBB, 0x200) ∧
      seen .fxRev32 (onInput (some tm19) 16 0 0) resStatus = some (0, 0x20C) := by decide

/-- X4, X16, X17. -/
theorem test_fxBits_X4_X16_X17 :
    seen .fxBits (onInput (some tm19) 4 0x000B0002 0) resStatus = some (0x064, 0x200) ∧
      seen .fxBits (onInput (some tm19) 4 0x000B0502 0) resStatus = some (0x043, 0x200) ∧
      seen .fxBits (onInput (some tm19) 4 0x00200004 0) resStatus = some (0x0864C006, 0x200) := by decide

/-- X15, X18, X19. -/
theorem test_fxBits_illegal :
    seen .fxBits (onInput (some tm19) 4 0x000B0602 0) resStatus = some (0, 0x20D) ∧
      seen .fxBits (onInput (some tm19) 4 0x00210004 0) resStatus = some (0, 0x20D) ∧
      seen .fxBits (onInput (some tm19) 4 0x00000001 0) resStatus = some (0, 0x20D) := by decide

/-- W3 and W4. -/
theorem test_pkBe_W3_W4 :
    seen .pkBe (onOutput (some [0, 0, 0, 0]) 0 2 0x12345) obStatus = some (some [0x23, 0x45, 0, 0], 0x100) ∧
      seen .pkBe (onOutput (some [0x23, 0x45, 0, 0]) 1 3 0xAABBCCDD) obStatus =
        some (some [0x23, 0xBB, 0xCC, 0xDD], 0x100) := by decide

/-- W1, W5, W16. -/
theorem test_pkBe_refused :
    seen .pkBe (onOutput none 0 1 0xFF) obStatus = some (none, 0x00C) ∧
      seen .pkBe (onOutput (some [1, 2, 3, 4]) 1 4 0) obStatus = some (some [1, 2, 3, 4], 0x10C) ∧
      seen .pkBe (onOutput (some [8, 0]) 0 0 1) obStatus = some (some [8, 0], 0x10D) := by decide

/-- W7 and W8. -/
theorem test_pkRev32_W7_W8 :
    seen .pkRev32 (onOutput (some [1, 2, 3, 4]) 0 0 0x12345678) obStatus =
        some (some [0x78, 0x56, 0x34, 0x12], 0x100) ∧
      seen .pkRev32 (onOutput (some [1, 2, 3, 4]) 1 0 0) obStatus = some (some [1, 2, 3, 4], 0x10C) := by decide

/-- W11, W12, W20. -/
theorem test_pkBits_W11_W12_W20 :
    seen .pkBits (onOutput (some [0x02, 0x5F]) 0 0x00010301 1) obStatus = some (some [0x0A, 0x5F], 0x100) ∧
      seen .pkBits (onOutput (some [0x0A, 0x5F]) 0 0x000B0002 0xFFFFF800) obStatus =
        some (some [0x08, 0x00], 0x100) ∧
      seen .pkBits (onOutput (some [0xDE, 0xAD, 0xBE, 0xEF]) 0 0x00080C04 0) obStatus =
        some (some [0xDE, 0xA0, 0x0E, 0xEF], 0x100) := by decide

/-- W13 and W15. -/
theorem test_pkBits_refused :
    seen .pkBits (onOutput (some [8, 0]) 0 0x000B0602 1) obStatus = some (some [8, 0], 0x10D) ∧
      seen .pkBits (onOutput (some [8, 0]) 1 0x00080002 1) obStatus = some (some [8, 0], 0x10C) := by decide

/-- S9, and the length policy of section 2.6. -/
theorem test_parseSptp_S9 :
    seen .parseSptp (onInput (some [0x77, 0x01, 0x02, 0x66]) 0 0 0)
        (readAll [0x004, 0x040, 0x044, 0x048, 0x04C, 0x098, 0x09C]) =
        some [0x230, 0x77, 1, 2, 0x66, 4, 0] ∧
      seen .parseSptp (onInput (some [1, 2, 3]) 0 0 0) resStatus = some (0, 0x20A) := by decide

/-- I9 and S3. -/
theorem test_parseIcd_I9_S3 :
    seen .parseIcd (onInput (some [0, 0, 0, 0, 0xA5, 0x5A, 0x96, 0x69, 0x12, 0x34]) 0 0 0)
        (readAll [0x004, 0x050, 0x054, 0x058, 0x05C, 0x060, 0x064, 0x068, 0x09C, 0x0A0, 0x0A4]) =
        some [0x250, 5, 0, 0, 0x55A, 2, 0x1669, 0x1234, 6, 10, 0] ∧
      seen .parseIcd (onInput (some (tm16.take 9)) 0 0 0) resStatus = some (0, 0x20A) := by decide

/-- Section 2.6, TM19. -/
theorem test_parseTm_TM19 :
    seen .parseTm (onInput (some tm19) 0 0 0)
        (readAll [0x004, 0x06C, 0x070, 0x074, 0x09C, 0x0A4, 0x0A8, 0x0AC]) =
        some [0x270, 0xDEADBEEF, 0x26A2, 0x26A2, 15, 9, 14, 3] := by decide +kernel

/-- Section 2.6, a Size that overstates the payload, and S4. -/
theorem test_parseTm_size_and_S4 :
    seen .parseTm (onInput (some
          [0x10, 0x03, 0x00, 0x20, 0x08, 0x64, 0xC0, 0x05, 0x01, 0x00, 0xDE, 0xAD, 0xBE, 0xEF, 0x3C, 0xB9]) 0 0 0)
        (readAll [0x068, 0x070, 0x074, 0x0A8, 0x0AC]) = some [0x100, 0x3CB9, 0x3CB9, 14, 256] ∧
      seen .parseTm (onInput (some (tm16.take 15)) 0 0 0) resStatus = some (0, 0x20A) := by decide +kernel

/-- S4. -/
theorem test_parseTk_TM16 :
    seen .parseTk (onInput (some tm16) 0 0 0) (readAll [0x004, 0x070, 0x074, 0x0A8, 0x0AC]) =
      some [0x290, 0x7919, 0x7919, 14, 0] := by decide +kernel

/-- O1 and S9. -/
theorem test_parseObt_O1 :
    seen .parseObt (onInput (some obt16) 0 0 0) (readAll [0x004, 0x078, 0x07C, 0x080, 0x09C, 0x0A4]) =
        some [0x2B0, 1, 2, 0x12345678, 12, 6] ∧
      seen .parseObt (onInput (some (obt16 ++ [0])) 0 0 0) resStatus = some (0, 0x20B) ∧
      seen .parseObt (onInput (some []) 0 0 0) resStatus = some (0, 0x20B) := by decide

/-- S1 (the document's own example) and H3. -/
theorem test_parseHsi_S1_H3 :
    seen .parseHsi (onInput (some [0xA4, 0x33, 0xFF, 0xF2]) 0 0 0)
        (readAll [0x004, 0x088, 0x08C, 0x090, 0x094, 0x098, 0x09C]) =
        some [0x2D0, 0xA4, 0x33, 1, 0x7FF2, 4, 0] ∧
      seen .parseHsi (onInput (some [0x5A, 0x00, 0x7F, 0xFF, 0x01, 0x02, 0x03]) 0 0 0)
        (readAll [0x088, 0x08C, 0x090, 0x094, 0x09C]) = some [0x5A, 0, 0, 0x7FFF, 3] := by decide

/-- S7, with both readings of TC_SHORT_ERR. -/
theorem test_parseTc_S7 :
    seen .parseTc (onInput (some [0x2A]) 0 0 0) (readAll [0x004, 0x084, 0x098, 0x09C]) =
        some [0x2F0, 0x2A, 0, 1] ∧
      seen .parseTc (onInput (some []) 0 0 0) resStatus = some (0, 0x20B) ∧
      seen .parseTc { onInput (some []) 0 0 0 with cfg := { Config.default with tcShortErr := .frameTooShort } }
        resStatus = some (0, 0x20A) ∧
      seen .parseTc (onInput (some [1, 2, 3]) 0 0 0) resStatus = some (0, 0x20B) := by decide

/-- B1 and B2. -/
theorem test_buildSptp_B1_B2 :
    seen .buildSptp (onInput (some [1, 2, 3, 4, 5, 6]) 0x77 0x66 0) obStatus =
        some (some [0x77, 0x01, 0x02, 0x66, 1, 2, 3, 4, 5, 6], 0x300) ∧
      seen .buildSptp (onInput (some []) 0x177 0x266 0) obStatus =
        some (some [0x77, 0x01, 0x02, 0x66], 0x300) := by decide

/-- B3. -/
theorem test_buildTk_B3 :
    seen .buildTk (onInput (some [1, 2, 3, 4, 5, 6]) 0x77 0x66 607) obStatus =
      some (some ([0x77, 0x03, 0x00, 0x66, 0x1A, 0x5F, 0xC0, 0x00, 0x00, 0x06] ++
        [1, 2, 3, 4, 5, 6, 0xDA, 0x37]), 0x300) := by decide +kernel

/-- W2 and W17. -/
theorem test_obNew_W2_W17 :
    seen .obNew { onOutput none 4 0 0 with sticky := true } obStatus = some (some [0, 0, 0, 0], 0x108) ∧
      seen .obNew { onOutput (some [8, 0]) 0 0 0 with sticky := true } obStatus = some (some [], 0x108) := by decide

/-! ### Functions, from sections 2.1 and 2.2 -/

theorem test_crc16_values :
    crc16 Config.default [0x31, 0x32, 0x33, 0x34, 0x35, 0x36, 0x37, 0x38, 0x39] = 0x29B1 ∧
      crc16 { Config.default with crcRefIn := true, crcRefOut := true, crcXorOut := 0xFFFF }
        [0x31, 0x32, 0x33, 0x34, 0x35, 0x36, 0x37, 0x38, 0x39] = 0x906E := by decide +kernel

theorem test_insert_values :
    insertField 0 0 11 607 = 0x025F ∧ insertField 0xFFFF 14 2 0 = 0x3FFF ∧
      insertField 0x0A5F 0 11 0xFFFFF800 = 0x0800 := by decide

/-- T1, the hidden registers after 15 micro-steps. -/
theorem test_fsm_T1 :
    (fun h : Hidden => (h.pstate, h.pos, h.crcWork, h.sh.getD 13 0))
      (microRun 15 (fsmStart .tm (onInput (some tm19) 0 0 0))).hid = (.pay, 14, 0x4F49, 0xEF) := by decide +kernel

/-! ### Witnesses: for each obligation with hypotheses, states that meet them, at the boundaries of its clauses

Each theorem is named after its obligation. A next state that a hypothesis asks for is exhibited. -/

/-- The state that is about to perform some host actions. -/
def waiting (actions : List HostAction) (s : State) : State := { s with pending := actions }

/-- A state with a present buffer of `n` zero bytes. -/
def onZeros (n : Nat) : State := { State.reset with ib := some (Memory.zeros n) }

/-- A state that holds the frame of the document's HSI example. -/
def holdsHsi : State :=
  { onInput (some [0xA4, 0x33, 0xFF, 0xF2]) 0 0 0 with
    frame := some { Frame.blank .hsi with hsi := ⟨0xA4, 0x33, 1, 0x7FF2⟩, pay0 := ⟨4, 0⟩ } }

theorem witness_ClrRestoresResetValues :
    State.reset.busy = false ∧
      ∃ t, Instr.nop ≠ .clr ∧ exec .nop { State.reset with sticky := true } = .next t ∧ t.sticky = true :=
  ⟨rfl, _, by decide, rfl, rfl⟩

theorem witness_CrcRangeOverInputBuffer :
    (onInput none 0 0 0).ib = none ∧
      (∃ m, (onInput (some []) 1 0 0).ib = some m ∧ m.len < 1 + 0) ∧
      (∃ m, (onInput (some tm19) 0xFFFFFFFF 1 0).ib = some m ∧ m.len < (0xFFFFFFFF : Word).toNat + 1) ∧
      (∃ m, (onInput (some tm19) 19 0 0).ib = some m ∧ 19 + 0 ≤ m.len) ∧
      ∃ m, (onInput (some tm19) 4 15 0).ib = some m ∧ 4 + 15 ≤ m.len :=
  ⟨rfl, ⟨_, rfl, by decide⟩, ⟨_, rfl, by decide⟩, ⟨_, rfl, by decide⟩, _, rfl, by decide⟩

theorem witness_CrcUpdateIsBitSerial :
    (∀ i, i < 8 → (0b1000_0011 : Byte).getLsbD i = (0b1100_0001 : Byte).getLsbD (7 - i)) ∧
      ∀ i, i < 16 → (0x8001 : Half).getLsbD i = (0x8001 : Half).getLsbD (15 - i) := by decide

theorem witness_CrcFunctionLaws :
    Config.default.crcPoly = ({ Config.default with pidIcd := 9, obMax := 18 } : Config).crcPoly ∧
      Config.default.crcRefIn = false ∧ Config.default.crcRefOut = false ∧ Config.default.crcXorOut = 0 := by
  decide

theorem witness_ByteSerialCrcEqualsRange :
    (waiting [.wr 0x000 0x10, .wr 0x008 0x31, .wr 0x000 0x11, .wr 0x000 0x12] State.reset).pending =
        [HostAction.wr 0x000 0x10] ++
          [(0x31 : Byte)].flatMap (fun b => [HostAction.wr 0x008 (b.setWidth 32), HostAction.wr 0x000 0x11]) ++
          [HostAction.wr 0x000 0x12] ++ [] ∧
      State.reset.cfg.wf = true ∧ [(0x31 : Byte)].length ≤ State.reset.cfg.ibMax ∧
      (waiting [.load [0x31], .wr 0x008 0, .wr 0x00C 1, .wr 0x000 0x13] State.reset).pending =
        [HostAction.load [0x31], .wr 0x008 0, .wr 0x00C (BitVec.ofNat 32 1), .wr 0x000 0x13] ++ [] := by decide

theorem witness_FxBeReadsBigEndian :
    (onInput none 0 5 0).opN = 5 ∧ (onInput none 0 8 0).opN = 0 ∧
      ((onInput none 0 1 0).opN = 1 ∧ (onInput none 0 1 0).ib = none) ∧
      (∃ m, (onInput (some tm19) 16 4 0).ib = some m ∧ (onInput (some tm19) 16 4 0).opN = 4 ∧ m.len < 16 + 4) ∧
      ∃ m, (onInput (some tm19) 15 4 0).ib = some m ∧ 15 + 4 ≤ m.len :=
  ⟨by decide, by decide, ⟨by decide, rfl⟩, ⟨_, rfl, by decide, by decide⟩, _, rfl, by decide⟩

theorem witness_FxRev32ReadsReversed :
    (onInput none 0 0 0).ib = none ∧ (∃ m, (onInput (some tm19) 16 0 0).ib = some m ∧ m.len < 16 + 4) ∧
      ∃ m, (onInput (some tm19) 15 0 0).ib = some m ∧ 15 + 4 ≤ m.len :=
  ⟨rfl, ⟨_, rfl, by decide⟩, _, rfl, by decide⟩

/-- The descriptor of a state, as the obligations read it. -/
def descriptorOf (s : State) : Nat × Nat × Nat :=
  ((s.arg1.extractLsb' 0 3).toNat, (s.arg1.extractLsb' 8 5).toNat, (s.arg1.extractLsb' 16 6).toNat)

theorem witness_FxBitsReadsField :
    descriptorOf (onInput none 4 0x000B0602 0) = (2, 6, 11) ∧ descriptorOf (onInput none 4 0x00210004 0) = (4, 0, 33) ∧
      (descriptorOf (onInput none 4 0x000B0502 0) = (2, 5, 11) ∧ (onInput none 4 0x000B0502 0).ib = none) ∧
      (∃ m, (onInput (some tm19) 18 0x000B0502 0).ib = some m ∧ m.len < 18 + 2) ∧
      ∃ m, (onInput (some tm19) 17 0x000B0502 0).ib = some m ∧ 17 + 2 ≤ m.len :=
  ⟨by decide, by decide, ⟨by decide, rfl⟩, ⟨_, rfl, by decide⟩, _, rfl, by decide⟩

theorem witness_PkBeWritesBigEndian :
    (onOutput none 0 0 1).opN = 0 ∧ (onOutput none 0 5 1).opN = 5 ∧
      ((onOutput none 0 1 1).opN = 1 ∧ (onOutput none 0 1 1).ob = none) ∧
      (∃ m, (onOutput (some [1, 2, 3, 4]) 1 4 0).ob = some m ∧ m.len < 1 + 4) ∧
      ∃ m, (onOutput (some [1, 2, 3, 4]) 0 4 0).ob = some m ∧ m.wf = true ∧ 0 + 4 ≤ m.len :=
  ⟨by decide, by decide, ⟨by decide, rfl⟩, ⟨_, rfl, by decide⟩, _, rfl, by decide, by decide⟩

theorem witness_PkRev32WritesReversed :
    (onOutput none 0 0 0).ob = none ∧ (∃ m, (onOutput (some [1, 2, 3, 4]) 1 0 0).ob = some m ∧ m.len < 1 + 4) ∧
      ∃ m, (onOutput (some [1, 2, 3, 4]) 0 0 0).ob = some m ∧ m.wf = true ∧ 0 + 4 ≤ m.len :=
  ⟨rfl, ⟨_, rfl, by decide⟩, _, rfl, by decide, by decide⟩

theorem witness_PkBitsWritesField :
    descriptorOf (onOutput none 0 0x000B0602 1) = (2, 6, 11) ∧
      (descriptorOf (onOutput none 0 0x000B0502 1) = (2, 5, 11) ∧ (onOutput none 0 0x000B0502 1).ob = none) ∧
      (∃ m, (onOutput (some [8, 0]) 1 0x000B0502 1).ob = some m ∧ m.len < 1 + 2) ∧
      ∃ m, (onOutput (some [8, 0]) 0 0x000B0502 1).ob = some m ∧ m.wf = true ∧ 0 + 2 ≤ m.len :=
  ⟨by decide, ⟨by decide, rfl⟩, ⟨_, rfl, by decide⟩, _, rfl, by decide, by decide⟩

/-- For the PARSE statements: no buffer, and present buffers of the lengths at which their clauses meet. -/
theorem witness_parse_lengths :
    State.reset.ib = none ∧
      ∀ n ∈ [0, 1, 2, 3, 4, 9, 10, 15, 16, 17], ∃ m, (onZeros n).ib = some m ∧ m.len = n :=
  ⟨rfl, fun n _ => ⟨Memory.zeros n, rfl, rfl⟩⟩

theorem witness_ParseTcCommitsFrame :
    (onZeros 0).cfg.tcShortErr = .frameWrongLength ∧
      ({ onZeros 0 with cfg := { Config.default with tcShortErr := .frameTooShort } } : State).cfg.tcShortErr =
        .frameTooShort := ⟨rfl, rfl⟩

theorem witness_BuildSptpWritesFrame :
    State.reset.ib = none ∧
      (∃ m, (onZeros 15).ib = some m ∧ ({ Config.default with obMax := 18 } : Config).obMax < m.len + 4) ∧
      ∃ m, (onZeros 14).ib = some m ∧ m.len + 4 ≤ ({ Config.default with obMax := 18 } : Config).obMax :=
  ⟨rfl, ⟨_, rfl, by decide⟩, _, rfl, by decide⟩

theorem witness_BuildTkWritesFrame :
    State.reset.ib = none ∧ (∃ m, (onZeros 65536).ib = some m ∧ 65535 < m.len) ∧
      (∃ m, (onZeros 7).ib = some m ∧ m.len ≤ 65535 ∧
        ({ Config.default with obMax := 18 } : Config).obMax < m.len + 12) ∧
      (∃ m, (onZeros 65535).ib = some m ∧ m.len ≤ 65535 ∧ m.len + 12 ≤ Config.default.obMax) ∧
      ∃ m, (onZeros 6).ib = some m ∧ m.len + 12 ≤ ({ Config.default with obMax := 18 } : Config).obMax :=
  ⟨rfl, ⟨_, rfl, by decide +kernel⟩, ⟨_, rfl, by decide +kernel, by decide +kernel⟩,
    ⟨_, rfl, by decide +kernel, by decide +kernel⟩, _, rfl, by decide⟩

theorem witness_ObNewMakesZeroBuffer :
    ({ Config.default with obMax := 18 } : Config).obMax < (onInput none 19 0 0).arg0.toNat ∧
      (onInput none 18 0 0).arg0.toNat ≤ ({ Config.default with obMax := 18 } : Config).obMax := by decide

theorem witness_ReservedOpcodesAreIllegal :
    (waiting [.wr 0x000 0x3F] State.reset).pending = .wr 0x000 0x3F :: [] ∧
      decodeOpcode ((0x3F : Word).extractLsb' 0 8) = .error (.reserved ((0x3F : Word).extractLsb' 0 8)) := by
  decide

theorem witness_StepRunsDecodedCommand :
    (waiting [.wr 0x000 0xFFFFFF30] State.reset).pending = .wr 0x000 0xFFFFFF30 :: [] ∧
      decode [(0xFFFFFF30 : Word).extractLsb' 0 8] = .ok (.parseSptp, []) ∧ Instr.parseSptp.wf = true := by decide

theorem witness_ParseOpcodeGivesKind :
    ∃ t, exec FrameKind.tc.instr (onZeros 1) = .next t ∧ t.err = .ok := ⟨_, rfl, rfl⟩

theorem witness_HostLoadReplacesBuffer :
    (waiting [.load [7]] State.reset).pending = .load [7] :: [] ∧ [(7 : Byte)].length ≤ State.reset.cfg.ibMax ∧
      (waiting [.loadAbsent] State.reset).pending = .loadAbsent :: [] ∧
      ({ Config.default with ibMax := 0 } : Config).ibMax < [(7 : Byte)].length := by decide

theorem witness_RegisterAccessRules :
    (waiting [.wr 0x000 0x30] State.reset).pending = .wr 0x000 0x30 :: [] ∧
      (0xFFFFFF30 : Word).extractLsb' 0 8 = (0x30 : Word).extractLsb' 0 8 ∧
      (waiting [.wr 0x014 5] State.reset).pending = .wr 0x014 5 :: [] ∧
      0x018 ∉ [0x000, 0x008, 0x00C, 0x010, 0x014] ∧
      (waiting [.rd 0x028] State.reset).pending = .rd 0x028 :: [] ∧ 0x028 ∉ registerMap.map Prod.fst := by decide

theorem witness_RegisterMapReads :
    (∃ f, holdsHsi.frame = some f) ∧ State.reset.frame = none ∧ 0x040 ≤ 0x0AC ∧
      (∃ m, holdsHsi.ib = some m) ∧ State.reset.ib = none ∧ (∃ m, (onOutput (some [8, 9]) 0 0 0).ob = some m) ∧
      State.reset.ob = none ∧ 0x041 % 4 ≠ 0 ∧ (0x024 < 0x028 ∧ 0x028 < 0x040) ∧ 0x0AC < 0x0B0 :=
  ⟨⟨_, rfl⟩, rfl, by decide, ⟨_, rfl⟩, rfl, ⟨_, rfl⟩, rfl, by decide, by decide, by decide⟩

theorem witness_RdobReadsOutputBuffer :
    (waiting [.rdob 1] (onOutput (some [8, 9]) 0 0 0)).pending = .rdob 1 :: [] ∧
      (∃ m, (onOutput (some [8, 9]) 0 0 0).ob = some m ∧ 1 < m.len ∧ m.len ≤ 2) ∧ State.reset.ob = none :=
  ⟨rfl, ⟨_, rfl, by decide, by decide⟩, rfl⟩

theorem witness_HostResetLeavesResetValues :
    (waiting [.reset, .rd 0x004] holdsHsi).pending = .reset :: [.rd 0x004] ∧ State.reset.pending = [] := by decide

/-- A legal state that holds a frame. -/
theorem holdsHsi_legal : holdsHsi.Legal where
  cfg := by decide
  ib := by
    intro m h
    cases h
    exact ⟨by decide, by decide⟩
  ob := by
    intro m h
    cases h
  sticky := fun h => absurd rfl h
  frame := by
    intro f h
    cases h
    exact ⟨_, rfl, rfl, rfl⟩
  idle := rfl
  busy := rfl
  sh := rfl

/-- The state of `holdsHsi_legal` takes a step; its PAY0 is the whole remainder. -/
theorem witness_EveryStepKeepsLegal_HeldViewsLieInsideBuffer :
    holdsHsi.Legal ∧ (∃ t, step holdsHsi = .next t) ∧ ∃ f, holdsHsi.frame = some f ∧ f.pay0.off = 4 :=
  ⟨holdsHsi_legal, ⟨_, rfl⟩, _, rfl, rfl⟩

theorem witness_ResetStateIsLegal : ({ Config.default with ibMax := 65540, obMax := 18 } : Config).wf = true := by
  decide

theorem witness_ParserRunAgreesWithAtomic :
    (onInput (some tm19) 0 0 0).hid.sh.length = 16 ∧ (onInput (some tm19) 0 0 0).ibLen < 2 ^ 32 := by decide

theorem witness_ParserMicroStepCounts :
    (onInput (some tm16) 0 0 0).ibLen < 2 ^ 32 ∧ State.reset.ib = none ∧
      (∃ m, (onInput (some tm16) 0 0 0).ib = some m ∧ 16 ≤ m.len) ∧ 0 < microCount .tm (onInput (some tm16) 0 0 0) :=
  ⟨by decide, rfl, ⟨_, rfl, by decide⟩, by decide⟩

/-- A state in P_CHECK that goes to P_FAIL, and one in P_SPTP. -/
theorem witness_ParserFollowsItsGraph_ParserHidesPartialFrames :
    (fsmStart .sptp State.reset).hid.pstate = .check ∧
      (microStep (fsmStart .sptp State.reset)).hid.pstate = .fail ∧
      (microStep (fsmStart .sptp (onZeros 4))).hid.pstate = .sptp := by decide

/-- A failing command and a succeeding one, for the statements about every command. -/
theorem witness_commands :
    (∃ t, exec .parseObt holdsHsi = .next t ∧ t.err ≠ .ok) ∧
      (∃ t, exec .parseHsi holdsHsi = .next t ∧ t.err = .ok) ∧ ∃ t, execReserved holdsHsi = .next t :=
  ⟨⟨_, rfl, by decide⟩, ⟨_, rfl, rfl⟩, _, rfl⟩

theorem witness_EveryCommandCompletes :
    ∀ bytes rest, (waiting [.load [7]] State.reset).pending = .load bytes :: rest →
      bytes.length ≤ State.reset.cfg.ibMax := by
  intro bytes rest h
  cases h
  decide

theorem witness_StickyTellsWhetherACommandFailed :
    State.reset.err = .ok ∧ State.reset.sticky = false ∧
      (∀ a ∈ (waiting [.wr 0x000 0x00, .wr 0x000 0x30] State.reset).pending, clearsSticky a = false) ∧
      ∃ t, Host.Core.run Sys2Proof.core 2 (waiting [.wr 0x000 0x00, .wr 0x000 0x30] State.reset) = .next t :=
  ⟨rfl, rfl, by decide, _, rfl⟩

theorem witness_CommandsAreIdempotent :
    Instr.pkBe ≠ .crcUpd ∧ (∀ m, (onOutput (some [8, 9]) 0 1 7).ob = some m → m.wf = true) ∧
      ∃ t, exec .pkBe (onOutput (some [8, 9]) 0 1 7) = .next t ∧ t.err = .ok := by
  refine ⟨by decide, ?_, _, rfl, rfl⟩
  intro m h
  cases h
  decide

theorem witness_ParsedFieldsRebuildTheBuffer :
    ∃ m t f, holdsHsi.ib = some m ∧ m.len < 2 ^ 32 ∧ exec FrameKind.hsi.instr holdsHsi = .next t ∧ t.err = .ok ∧
      t.frame = some f := ⟨_, _, _, rfl, by decide, rfl, rfl, rfl⟩

theorem witness_IcdPackingIsExact : ([0x1A, 0x5F, 0xC0, 0x00, 0x00, 0x06] : List Byte).length = 6 := rfl

theorem witness_FieldFunctionLaws : 21 + 11 ≤ 32 ∧ (0 + 21 ≤ 21 ∨ 21 + 11 ≤ 0) := by decide

theorem witness_LayersAgreeOnSharedRegisters :
    ∃ t u f g, exec FrameKind.icd.instr (onInput (some tm19) 0 0 0) = .next t ∧
      exec FrameKind.tm.instr (onInput (some tm19) 0 0 0) = .next u ∧ t.frame = some f ∧ u.frame = some g ∧
      t.err = .ok ∧ u.err = .ok := ⟨_, _, _, _, rfl, rfl, rfl, rfl, rfl, rfl⟩

theorem witness_PseudoCommandsReadParsedFields :
    (∃ m, (onInput (some (tm16.take 10)) 0 0 0).ib = some m ∧ 10 ≤ m.len) ∧
      (waiting pseudoIcdApid.actions State.reset).pending =
        [.wr 0x008 4, .wr 0x00C 0x000B0002, .wr 0x000 0x22] ∧
      (∃ m, (onZeros 4).ib = some m ∧ 4 ≤ m.len) ∧ ∃ m, (onInput (some obt16) 0 0 0).ib = some m ∧ 16 ≤ m.len :=
  ⟨⟨_, rfl, by decide⟩, by decide, ⟨_, rfl, by decide⟩, _, rfl, by decide⟩

theorem witness_BuiltSptpFrameParsesBack :
    ∃ m t o u, (onZeros 2).ib = some m ∧ m.len + 4 ≤ (onZeros 2).cfg.obMax ∧ exec .buildSptp (onZeros 2) = .next t ∧
      t.ob = some o ∧ hostLoad o.toBytes t = .next u := ⟨_, _, _, _, rfl, by decide, rfl, rfl, rfl⟩

/-- With a payload of four bytes, the least that PARSE.TK accepts. -/
theorem witness_BuiltTkFrameParsesBack :
    ∃ m t o u, (onZeros 4).ib = some m ∧ m.len ≤ 65535 ∧ m.len + 12 ≤ (onZeros 4).cfg.obMax ∧
      exec .buildTk (onZeros 4) = .next t ∧ t.ob = some o ∧ hostLoad o.toBytes t = .next u ∧ 4 ≤ m.len :=
  ⟨_, _, _, _, rfl, by decide, by decide, rfl, rfl, rfl, by decide⟩

end Sys2Proof.Tests
end

section
/-! SUPPORT. The access rules of the register map (10_state.md R47): how a step takes the host's next action, what the
map's look-up finds, and what a host write does at a register's offset and anywhere else. -/

namespace Sys2Proof.Machine

/-! ### A step is the next host action -/

/-- R14: the action at the head of the host's program is taken off it and performed. -/
theorem step_of_pending {s : State} {a : HostAction} {rest : List HostAction} (h : s.pending = a :: rest) :
    step s = performAction a { s with pending := rest } := by
  unfold step stepAction
  rw [h]

theorem step_wr {s : State} {offset : Nat} {v : Word} {rest : List HostAction} (h : s.pending = .wr offset v :: rest) :
    step s = hostWrite offset v { s with pending := rest } := step_of_pending h

theorem step_rd {s : State} {offset : Nat} {rest : List HostAction} (h : s.pending = .rd offset :: rest) :
    step s = .next (hostRead offset { s with pending := rest }) := step_of_pending h

/-! ### The register map -/

theorem regAt_offset (r : Reg) : regAt r.offset = some r := by
  cases r <;> rfl

/-- The map's rows are the registers at their own offsets, so a look-up finds a register only there. -/
theorem offset_eq_of_regAt {offset : Nat} {r : Reg} (h : regAt offset = some r) : r.offset = offset := by
  have rows : ∀ p ∈ registerMap, p.2.offset = p.1 := by decide
  obtain ⟨before, after, hmap, -⟩ := List.lookup_eq_some_iff.mp h
  exact rows (offset, r) (by simp [hmap])

theorem regAt_eq_none_of_notMem {offset : Nat} (h : offset ∉ registerMap.map Prod.fst) : regAt offset = none := by
  refine List.lookup_eq_none_iff.mpr fun p hp => bne_iff_ne.mpr ?_
  rintro rfl
  exact h (List.mem_map_of_mem hp)

/-! ### Host writes -/

/-- The registers that a host write reaches (R21, R22, R47); `writeReg_of_notMem` says that they are all. -/
def writableRegs : List Reg := [.cmd, .arg0, .arg1, .arg2, .arg3]

theorem writeReg_of_notMem {r : Reg} (h : r ∉ writableRegs) (v : Word) (s : State) : writeReg r v s = .next s := by
  cases r
  case cmd | arg0 | arg1 | arg2 | arg3 => exact absurd (by decide) h
  all_goals rfl

/-- R22: of a word written to CMD only the opcode, its bits 7:0, is used. -/
theorem writeReg_cmd_congr {v w : Word} (h : cmdOpcode w = cmdOpcode v) (s : State) :
    writeReg .cmd w s = writeReg .cmd v s := by
  show issue [cmdOpcode w] s = issue [cmdOpcode v] s
  rw [h]

theorem hostWrite_offset (r : Reg) (v : Word) (s : State) : hostWrite r.offset v s = writeReg r v s := by
  unfold hostWrite
  rw [regAt_offset]

/-- A write to a read-only register and a write where the map has no register are ignored alike. -/
theorem hostWrite_ignored {offset : Nat} (h : offset ∉ writableRegs.map Reg.offset) (v : Word) (s : State) :
    hostWrite offset v s = .next s := by
  unfold hostWrite
  cases hr : regAt offset with
  | none => rfl
  | some r =>
    refine writeReg_of_notMem (fun hw => h ?_) v s
    exact offset_eq_of_regAt hr ▸ List.mem_map_of_mem hw

/-! ### Host reads -/

theorem readOffset_offset (s : State) (r : Reg) : s.readOffset r.offset = s.readReg r := by
  unfold State.readOffset
  rw [regAt_offset]

theorem readOffset_unmapped (s : State) {offset : Nat} (h : offset ∉ registerMap.map Prod.fst) :
    s.readOffset offset = 0 := by
  unfold State.readOffset
  rw [regAt_eq_none_of_notMem h]

/-! ### R47 -/

/-- R47 for CMD: a step that writes a word with the same low byte is the same step. -/
theorem step_wr_cmd_congr {s : State} {v w : Word} {rest : List HostAction}
    (h : s.pending = .wr Reg.cmd.offset v :: rest) (hop : cmdOpcode w = cmdOpcode v) :
    step { s with pending := .wr Reg.cmd.offset w :: rest } = step s := by
  rw [step_wr h, step_wr rfl, hostWrite_offset, hostWrite_offset]
  exact writeReg_cmd_congr hop _

/-- A step that writes a register at its offset is that register's write. -/
theorem step_wr_offset {s : State} {r : Reg} {v : Word} {rest : List HostAction}
    (h : s.pending = .wr r.offset v :: rest) : step s = writeReg r v { s with pending := rest } := by
  rw [step_wr h, hostWrite_offset]

/-- Settles O32: each clause is the write or the read of one register at its offset, or an access that reaches no
register. -/
theorem registerAccessRules : Obligations.RegisterAccessRules := by
  refine ⟨fun s offset v rest h => ⟨?cmd, ?arg0, ?arg1, ?arg2, ?arg3, ?ignored⟩,
    fun s offset rest h => ⟨step_rd h, ?readCmd, readOffset_unmapped s⟩⟩
  case cmd => rintro rfl w hop; exact step_wr_cmd_congr h hop
  case arg0 => rintro rfl; exact step_wr_offset (r := .arg0) h
  case arg1 => rintro rfl; exact step_wr_offset (r := .arg1) h
  case arg2 => rintro rfl; exact step_wr_offset (r := .arg2) h
  case arg3 => rintro rfl; exact step_wr_offset (r := .arg3) h
  case ignored => intro hout; rw [step_wr h]; exact hostWrite_ignored hout v _
  case readCmd => rintro rfl; exact readOffset_offset s .cmd

end Sys2Proof.Machine
end

section
/-! SUPPORT. The reserved opcodes (30_encoding.md R87): which opcodes no row of the table matches, and what the step
that writes one of them to CMD does. -/

namespace Sys2Proof

/-! ### Which opcodes are reserved -/

theorem mask_of_mem_opcodeTable : ∀ r ∈ opcodeTable, r.mask = 0xFF := by decide

/-- R82: a row of the table is matched on all eight bits of the opcode. -/
theorem hits_iff_of_mem_opcodeTable {r : OpcodeRow} (h : r ∈ opcodeTable) (c : Byte) :
    r.hits c = true ↔ c = r.value := by
  have hmask : c &&& r.mask = c := by
    rw [mask_of_mem_opcodeTable r h]
    exact BitVec.and_allOnes
  unfold OpcodeRow.hits
  rw [hmask, beq_iff_eq]

/-- R91: an opcode is reserved when no row of the table matches it. -/
theorem decodeOpcode_eq_reserved_iff (c : Byte) :
    decodeOpcode c = .error (.reserved c) ↔ opcodeTable.find? (fun r => r.hits c) = none := by
  unfold decodeOpcode
  cases opcodeTable.find? (fun r => r.hits c) <;> simp

/-- R87, its first sentence: the reserved opcodes are those that are not in the table. -/
theorem decodeOpcode_eq_reserved_iff_notMem (c : Byte) :
    decodeOpcode c = .error (.reserved c) ↔ c.toNat ∉ opcodeTable.map (fun r => r.value.toNat) := by
  rw [decodeOpcode_eq_reserved_iff, List.find?_eq_none, List.mem_map, not_exists]
  refine forall_congr' fun r => ?_
  rw [not_and]
  refine forall_congr' fun hr => ?_
  rw [hits_iff_of_mem_opcodeTable hr, ← BitVec.toNat_inj, eq_comm]

/-- R81's opcodes as numbers; the ranges of R87 are the gaps between them. -/
theorem opcodeTable_values : opcodeTable.map (fun r => r.value.toNat) =
    [0x00, 0x01, 0x10, 0x11, 0x12, 0x13, 0x20, 0x21, 0x22, 0x28, 0x29, 0x2A, 0x30, 0x31, 0x32, 0x33, 0x34, 0x35, 0x36,
      0x40, 0x41, 0x48] := by
  decide

/-- R87, its last sentence: the seven ranges. -/
theorem decodeOpcode_eq_reserved_iff_ranges (c : Byte) :
    decodeOpcode c = .error (.reserved c) ↔
      (0x02 ≤ c.toNat ∧ c.toNat ≤ 0x0F) ∨ (0x14 ≤ c.toNat ∧ c.toNat ≤ 0x1F) ∨ (0x23 ≤ c.toNat ∧ c.toNat ≤ 0x27) ∨
      (0x2B ≤ c.toNat ∧ c.toNat ≤ 0x2F) ∨ (0x37 ≤ c.toNat ∧ c.toNat ≤ 0x3F) ∨ (0x42 ≤ c.toNat ∧ c.toNat ≤ 0x47) ∨
      0x49 ≤ c.toNat := by
  rw [decodeOpcode_eq_reserved_iff_notMem, opcodeTable_values]
  simp only [List.mem_cons, List.not_mem_nil, or_false]
  omega

/-- R80: the decoder looks at the first byte and nothing else, so it rejects what that byte's opcode is rejected for. -/
theorem decode_cons_of_error {c : Byte} {e : Reject} (h : decodeOpcode c = .error e) (bytes : List Byte) :
    decode (c :: bytes) = .error e := by
  simp only [decode, h]

end Sys2Proof

namespace Sys2Proof.Machine

/-! ### What writing a reserved opcode does -/

theorem execReserved_eq (s : State) : execReserved s = .next { s with err := .illegalCommand, sticky := true } := rfl

/-- R91: whatever the decoder rejects executes as a reserved opcode. -/
theorem issue_of_decode_error {bytes : List Byte} {e : Reject} (h : decode bytes = .error e) (s : State) :
    issue bytes s = execReserved s := by
  unfold issue
  rw [h]

/-- R22: only bits 7:0 of the word count, so a rejected opcode there makes the step a reserved opcode's. -/
theorem step_wr_cmd_of_decodeOpcode_error {s : State} {v : Word} {rest : List HostAction} {e : Reject}
    (hp : s.pending = .wr Reg.cmd.offset v :: rest) (hr : decodeOpcode (cmdOpcode v) = .error e) :
    step s = execReserved { s with pending := rest } := by
  rw [step_wr_offset hp]
  exact issue_of_decode_error (decode_cons_of_error hr []) _

/-- Settles O28: the seven ranges are the gaps of the opcode table, and a step that writes one of them to CMD runs
`execReserved`. -/
theorem reservedOpcodesAreIllegal : Obligations.ReservedOpcodesAreIllegal := by
  refine ⟨decodeOpcode_eq_reserved_iff_ranges, fun s v rest hp hr => ⟨?_, rfl⟩⟩
  rw [step_wr_cmd_of_decodeOpcode_error hp hr, execReserved_eq]

end Sys2Proof.Machine
end

section
/-! SUPPORT. The CRC unit's functions in the words of 40_crc.md R101: the shifts as an iteration, and a reflection as
the word that its own bits say it is. -/

namespace Sys2Proof.Machine

/-! ### The two functions, bit by bit -/

/-- R101's "repeat n times". -/
theorem crcShifts_eq_iterate (poly : Half) (n : Nat) (acc : Half) : crcShifts poly n acc = (crcShift poly)^[n] acc := by
  induction n generalizing acc with
  | zero => rfl
  | succ n ih => rw [crcShifts_succ, ih, Function.iterate_succ_apply]

/-- R101's repetition as a loop over any list of the right length. -/
theorem foldl_crcShift {α : Type} (poly acc : Half) (l : List α) :
    l.foldl (fun a _ => crcShift poly a) acc = crcShifts poly l.length acc := by
  rw [List.foldl_const, crcShifts_eq_iterate]

/-- R101's reflect8 and reflect16: only the reverse has these bits. -/
theorem eq_reverse_of_getLsbD {w : Nat} {r x : BitVec w} (h : ∀ i, i < w → r.getLsbD i = x.getLsbD (w - 1 - i)) :
    r = x.reverse := by
  refine BitVec.eq_of_getLsbD_eq fun i hi => ?_
  rw [h i hi, BitVec.getLsbD_reverse, BitVec.getMsbD_eq_getLsbD, decide_eq_true hi, Bool.true_and]

theorem crcInByte_of_reflection {b r : Byte} (h : ∀ i, i < 8 → r.getLsbD i = b.getLsbD (7 - i)) (c : Config) :
    crcInByte c b = if c.crcRefIn then r else b := by
  rw [crcInByte, eq_reverse_of_getLsbD h]

/-- Settles O7: the eight shifts are the loop over `List.range 8`, and each reflection is its word's reverse. -/
theorem crcUpdateIsBitSerial : Obligations.CrcUpdateIsBitSerial := by
  refine ⟨fun c acc b r hr => ?update, fun c acc r hr => ?final⟩
  case update =>
    rw [crcUpdate, crcInByte_of_reflection hr]
    exact (foldl_crcShift c.crcPoly _ (List.range 8)).symm
  case final => rw [crcFinal, eq_reverse_of_getLsbD hr]

end Sys2Proof.Machine
end

section
/-! SUPPORT. The CRC commands (40_crc.md R104 to R107): the opcode each command is decoded from, and its next state on
each path of its rule. -/

namespace Sys2Proof

/-- R81: a command's own opcode is decoded as that command. -/
theorem decodeOpcode_encodeOpcode (i : Instr) : decodeOpcode (encodeOpcode i) = .ok i := by
  cases i <;> rfl

end Sys2Proof

namespace Sys2Proof.Machine

/-! ### The commands that cannot fail -/

theorem exec_crcClr (s : State) : exec .crcClr s = .next { s with crcAcc := s.cfg.crcInit, err := .ok } := rfl

theorem exec_crcUpd (s : State) :
    exec .crcUpd s = .next { s with crcAcc := crcUpdate s.cfg s.crcAcc (s.arg0.extractLsb' 0 8), err := .ok } := rfl

theorem exec_crcRd (s : State) :
    exec .crcRd s = .next { s with res := (crcFinal s.cfg s.crcAcc).setWidth 32, err := .ok } := rfl

/-- Settles O3: R104's opcode and its assignment. -/
theorem crcClrSetsAccumulator : Obligations.CrcClrSetsAccumulator :=
  ⟨decodeOpcode_encodeOpcode .crcClr, exec_crcClr⟩

/-- Settles O4: R105's opcode and its assignment, which reads no buffer. -/
theorem crcUpdFeedsOneByte : Obligations.CrcUpdFeedsOneByte :=
  ⟨decodeOpcode_encodeOpcode .crcUpd, exec_crcUpd⟩

/-- Settles O5: R106's opcode and its assignment, CRC_ACC staying. -/
theorem crcRdFinalisesIntoRes : Obligations.CrcRdFinalisesIntoRes :=
  ⟨decodeOpcode_encodeOpcode .crcRd, exec_crcRd⟩

/-! ### CRC.RANGE -/

/-- R266 for the destination group RES. -/
theorem raiseErr_result_eq (c : Err) (s : State) :
    raiseErr .result c s = { s with res := 0, err := c, sticky := true } := rfl

theorem exec_crcRange (s : State) : exec .crcRange s = execCrcRange s := rfl

theorem execCrcRange_of_absent {s : State} (h : s.ib = none) :
    execCrcRange s = .next (raiseErr .result .nullInput s) := by
  unfold execCrcRange
  rw [h]

theorem execCrcRange_of_lt {s : State} {m : Memory} (hm : s.ib = some m) (h : m.len < s.opOff + s.opRangeLen) :
    execCrcRange s = .next (raiseErr .result .outOfRange s) := by
  unfold execCrcRange
  rw [hm]
  exact if_pos h

theorem execCrcRange_of_le {s : State} {m : Memory} (hm : s.ib = some m) (h : s.opOff + s.opRangeLen ≤ m.len) :
    execCrcRange s = .next (succeed { s with
      res := (crc16 s.cfg (m.read s.opOff s.opRangeLen)).setWidth 32,
      hid := { s.hid with crcWork := crcFold s.cfg s.cfg.crcInit (m.read s.opOff s.opRangeLen) } }) := by
  unfold execCrcRange
  rw [hm]
  exact if_neg (Nat.not_lt.mpr h)

/-- Settles O6: one lemma per path of R107; on the last one the bytes read are those of the range (R62). -/
theorem crcRangeOverInputBuffer : Obligations.CrcRangeOverInputBuffer := by
  refine ⟨decodeOpcode_encodeOpcode .crcRange, fun s => ⟨?absent, ?outOfRange, ?inRange⟩⟩
  case absent =>
    intro h
    rw [exec_crcRange, execCrcRange_of_absent h, raiseErr_result_eq]
  case outOfRange =>
    intro m hm h
    rw [exec_crcRange, execCrcRange_of_lt hm h, raiseErr_result_eq]
  case inRange =>
    intro m hm h
    rw [← Memory.read_eq, exec_crcRange, execCrcRange_of_le hm h]
    exact ⟨_, rfl⟩

end Sys2Proof.Machine
end

section
/-! SUPPORT. The composition and insertion functions of 41_field_extract.md R120 to R125 bit by bit and byte by byte, on
the bytes of a buffer and on a 32-bit operand; and the legality of a descriptor as the bounds it is made of (R86). -/

namespace Sys2Proof.Machine

/-! ### Legal descriptors -/

theorem groupLegal_iff (n : Nat) : groupLegal n = true ↔ 1 ≤ n ∧ n ≤ 4 := by
  simp [groupLegal]

theorem fieldLegal_iff (n lsb w : Nat) :
    fieldLegal n lsb w = true ↔ 1 ≤ n ∧ n ≤ 4 ∧ 1 ≤ w ∧ w ≤ 32 ∧ lsb + w ≤ 8 * n := by
  simp [fieldLegal, groupLegal_iff, and_assoc]

/-! ### Composing the bytes of a range -/

/-- R120 on a range of a buffer: the big-endian value is the weighted sum of the bytes. -/
theorem be_read (m : Memory) (off n : Nat) : be (m.read off n) = m.beSum off n := by
  induction n generalizing off with
  | zero => rfl
  | succ n ih =>
    have hshift : m.beSum (off + 1) n =
        ∑ i ∈ Finset.range n, (m.byte (off + (i + 1))).toNat * 2 ^ (8 * (n + 1 - 1 - (i + 1))) := by
      refine Finset.sum_congr rfl fun i _ => ?_
      rw [show off + 1 + i = off + (i + 1) by omega, show n - 1 - i = n + 1 - 1 - (i + 1) by omega]
    have hweight : 256 ^ n = 2 ^ (8 * (n + 1 - 1 - 0)) := by
      rw [Nat.pow_mul, Nat.add_sub_cancel, Nat.sub_zero]
    rw [Memory.read_succ, be_cons, Memory.length_read, ih, hshift, hweight, Nat.add_comm, Memory.beSum,
      Finset.sum_range_succ', Nat.add_zero off]

/-- Bit `j` of a big-endian value is bit `j % 8` of the byte `j / 8` from the end. -/
theorem testBit_be (bytes : List Byte) {j : Nat} (h : j < 8 * bytes.length) :
    (be bytes).testBit j = (bytes.getD (bytes.length - 1 - j / 8) 0).getLsbD (j % 8) := by
  induction bytes with
  | nil => simp at h
  | cons b rest ih =>
    have hpow : 256 ^ rest.length = 2 ^ (8 * rest.length) := (Nat.pow_mul 2 8 _).symm
    rw [List.length_cons] at h ⊢
    rw [be_cons, hpow, Nat.mul_comm, Nat.testBit_two_pow_mul_add _ (hpow ▸ be_lt rest)]
    split
    case isTrue hlow =>
      rw [ih hlow, show rest.length + 1 - 1 - j / 8 = (rest.length - 1 - j / 8) + 1 by omega, List.getD_cons_succ]
    case isFalse hhigh =>
      rw [show rest.length + 1 - 1 - j / 8 = 0 by omega, List.getD_cons_zero,
        show j - 8 * rest.length = j % 8 by omega, BitVec.testBit_toNat]

theorem toNat_append_byte {w : Nat} (x : BitVec w) (b : Byte) : (x ++ b).toNat = x.toNat * 256 + b.toNat := by
  rw [BitVec.toNat_append, ← Nat.shiftLeft_add_eq_or_of_lt b.isLt, Nat.shiftLeft_eq]

/-- R121 on four bytes: the first byte read is the lowest of the word. -/
theorem ofNat_rev_read_four (m : Memory) (off : Nat) :
    BitVec.ofNat 32 (rev (m.read off 4)) =
      m.byte (off + 3) ++ m.byte (off + 2) ++ m.byte (off + 1) ++ m.byte off := by
  have hread : m.read off 4 = [m.byte off, m.byte (off + 1), m.byte (off + 2), m.byte (off + 3)] :=
    Memory.read_eq m off 4
  have hrev : rev (m.read off 4) =
      (m.byte (off + 3) ++ m.byte (off + 2) ++ m.byte (off + 1) ++ m.byte off).toNat := by
    rw [hread, toNat_append_byte, toNat_append_byte, toNat_append_byte]
    simp only [rev]
    ring
  rw [hrev]
  exact (BitVec.ofNat_toNat 32 _).trans (BitVec.setWidth_eq _)

/-! ### Decomposing a 32-bit operand -/

theorem ofNat_div_two_pow {w : Nat} (v : BitVec w) (k : Nat) : BitVec.ofNat 8 (v.toNat / 2 ^ k) = v.extractLsb' k 8 := by
  rw [← Nat.shiftRight_eq_div_pow]
  rfl

/-- R123 on an operand: byte `i` of `n`, the most significant first. -/
theorem getD_beBytes_toNat (v : Word) {n i : Nat} (h : i < n) :
    (beBytes v.toNat n).getD i 0 = v.extractLsb' (8 * (n - 1 - i)) 8 := by
  rw [getD_beBytes _ _ _ h, ofNat_div_two_pow]

/-- R124 on an operand: byte `i` of `n`, the least significant first. -/
theorem getD_revBytes_toNat (v : Word) {n i : Nat} (h : i < n) :
    (revBytes v.toNat n).getD i 0 = v.extractLsb' (8 * i) 8 := by
  rw [getD_revBytes _ _ _ h, ofNat_div_two_pow]

/-! ### Inserting a field -/

theorem getLsbD_fieldMask (w i : Nat) : (fieldMask w).getLsbD i = (decide (i < 32) && decide (i < w)) := by
  rw [fieldMask, BitVec.getLsbD_ofNat, Nat.testBit_two_pow_sub_one]

/-- R125 bit by bit: the operand's bits inside the field, the old ones outside it. -/
theorem getLsbD_insertField (old v : Word) {lsb w j : Nat} (h : lsb + w ≤ 32) (hj : j < 32) :
    (insertField old lsb w v).getLsbD j =
      if lsb ≤ j ∧ j < lsb + w then v.getLsbD (j - lsb) else old.getLsbD j := by
  have hmask : (fieldMask w <<< lsb).getLsbD j = decide (lsb ≤ j ∧ j < lsb + w) := by
    rw [BitVec.getLsbD_shiftLeft, getLsbD_fieldMask, Bool.eq_iff_iff]
    simp only [Bool.and_eq_true, Bool.not_eq_true', decide_eq_true_iff, decide_eq_false_iff_not]
    omega
  have hvalue : ((v &&& fieldMask w) <<< lsb).getLsbD j =
      (decide (lsb ≤ j ∧ j < lsb + w) && v.getLsbD (j - lsb)) := by
    rw [← hmask, BitVec.getLsbD_shiftLeft, BitVec.getLsbD_shiftLeft, BitVec.getLsbD_and, Bool.and_comm (v.getLsbD _),
      ← Bool.and_assoc]
  rw [insertField, BitVec.getLsbD_or, BitVec.getLsbD_and, BitVec.getLsbD_not, hmask, hvalue]
  by_cases hin : lsb ≤ j ∧ j < lsb + w <;> simp [hin, hj]

/-- R133's read-modify-write: the bytes of the old group with the field inserted; `exec_pkBits_of_legal` says that PK.BITS
stores them. -/
def insertedGroup (n lsb w : Nat) (v : Word) (old : List Byte) : List Byte :=
  beBytes (insertField (BitVec.ofNat 32 (be old)) lsb w v).toNat n

@[simp] theorem length_insertedGroup (n lsb w : Nat) (v : Word) (old : List Byte) :
    (insertedGroup n lsb w v old).length = n := length_beBytes _ n

/-- Bit `j` of the group, found in the byte that holds it, is the operand's inside the field and the old group's
outside it. -/
theorem getLsbD_insertedGroup (v : Word) {old : List Byte} {n lsb w j : Nat} (hold : old.length = n) (hn : n ≤ 4)
    (h : lsb + w ≤ 8 * n) (hj : j < 8 * n) :
    ((insertedGroup n lsb w v old).getD (n - 1 - j / 8) 0).getLsbD (j % 8) =
      if lsb ≤ j ∧ j < lsb + w then v.getLsbD (j - lsb) else (old.getD (n - 1 - j / 8) 0).getLsbD (j % 8) := by
  subst hold
  have hbyte : old.length - 1 - (old.length - 1 - j / 8) = j / 8 := by omega
  have hbit : j % 8 < 8 := Nat.mod_lt j (by decide)
  rw [insertedGroup, getD_beBytes_toNat _ (by omega), hbyte, BitVec.getLsbD_extractLsb', decide_eq_true hbit,
    Bool.true_and, Nat.div_add_mod, getLsbD_insertField _ _ (by omega) (by omega), BitVec.getLsbD_ofNat,
    testBit_be old hj, decide_eq_true (show j < 32 by omega), Bool.true_and]

end Sys2Proof.Machine
end

section
/-! SUPPORT. The extract commands (41_field_extract.md R127 to R129): the legality check, then the presence check, the
bounds check and the value that they share. -/

namespace Sys2Proof.Machine

/-! ### The shared end: presence, bounds, value -/

theorem extractWith_of_absent {s : State} (h : s.ib = none) (off n : Nat) (value : List Byte → Nat) :
    extractWith off n value s = .next (raiseErr .result .nullInput s) := by
  unfold extractWith
  rw [h]

theorem extractWith_of_lt {s : State} {m : Memory} (hm : s.ib = some m) {off n : Nat} (h : m.len < off + n)
    (value : List Byte → Nat) :
    extractWith off n value s = .next (raiseErr .result .outOfRange s) := by
  unfold extractWith
  rw [hm]
  exact if_pos h

theorem extractWith_of_le {s : State} {m : Memory} (hm : s.ib = some m) {off n : Nat} (h : off + n ≤ m.len)
    (value : List Byte → Nat) :
    extractWith off n value s = .next (succeed { s with res := BitVec.ofNat 32 (value (m.read off n)) }) := by
  unfold extractWith
  rw [hm]
  exact if_neg (Nat.not_lt.mpr h)

/-! ### FX.BE -/

theorem exec_fxBe_of_legal {s : State} (h : 1 ≤ s.opN ∧ s.opN ≤ 4) :
    exec .fxBe s = extractWith s.opOff s.opN be s :=
  if_pos ((groupLegal_iff _).mpr h)

theorem exec_fxBe_of_illegal {s : State} (h : ¬(1 ≤ s.opN ∧ s.opN ≤ 4)) :
    exec .fxBe s = .next (raiseErr .result .illegalCommand s) :=
  if_neg (mt (groupLegal_iff _).mp h)

/-- Settles O10: the legality check, then the shared end's three paths, whose value is the weighted sum. -/
theorem fxBeReadsBigEndian : Obligations.FxBeReadsBigEndian := by
  refine ⟨decodeOpcode_encodeOpcode .fxBe, fun s off n (hoff : off = s.opOff) (hn : n = s.opN) => ?_⟩
  subst hoff hn
  refine ⟨fun h => exec_fxBe_of_illegal (by omega), ?absent, ?outOfRange, ?inRange⟩
  case absent =>
    intro h1 h4 hib
    exact (exec_fxBe_of_legal ⟨h1, h4⟩).trans (extractWith_of_absent hib _ _ _)
  case outOfRange =>
    intro h1 h4 m hm h
    exact (exec_fxBe_of_legal ⟨h1, h4⟩).trans (extractWith_of_lt hm h _)
  case inRange =>
    intro h1 h4 m hm h
    rw [exec_fxBe_of_legal ⟨h1, h4⟩, extractWith_of_le hm h, be_read]
    rfl

/-! ### FX.REV32 -/

theorem exec_fxRev32 (s : State) : exec .fxRev32 s = extractWith s.opOff 4 rev s := rfl

/-- Settles O11: the shared end's three paths, whose value is the four bytes put together in reverse. -/
theorem fxRev32ReadsReversed : Obligations.FxRev32ReadsReversed := by
  refine ⟨decodeOpcode_encodeOpcode .fxRev32, fun s off (hoff : off = s.opOff) => ?_⟩
  subst hoff
  rw [exec_fxRev32]
  refine ⟨fun hib => extractWith_of_absent hib _ _ _, fun m hm h => extractWith_of_lt hm h _, fun m hm h => ?inRange⟩
  case inRange =>
    rw [extractWith_of_le hm h, ofNat_rev_read_four]
    rfl

/-! ### FX.BITS -/

theorem exec_fxBits_of_legal {s : State} (h : fieldLegal s.opN s.opLsb s.opW = true) :
    exec .fxBits s = extractWith s.opOff s.opN (fun bytes => slice (be bytes) s.opLsb s.opW) s :=
  if_pos h

theorem exec_fxBits_of_illegal {s : State} (h : ¬fieldLegal s.opN s.opLsb s.opW = true) :
    exec .fxBits s = .next (raiseErr .result .illegalCommand s) :=
  if_neg h

/-- Settles O12: the legality check, then the shared end's three paths, whose value is the slice of the weighted sum. -/
theorem fxBitsReadsField : Obligations.FxBitsReadsField := by
  refine ⟨decodeOpcode_encodeOpcode .fxBits, fun s off n lsb w (hoff : off = s.opOff) (hn : n = s.opN)
    (hlsb : lsb = s.opLsb) (hw : w = s.opW) => ?_⟩
  subst hoff hn hlsb hw
  refine ⟨fun h => exec_fxBits_of_illegal ?illegal, fun h1 h4 hw1 hw32 hfit => ?_⟩
  case illegal =>
    rw [fieldLegal_iff]
    omega
  have hlegal : fieldLegal s.opN s.opLsb s.opW = true := (fieldLegal_iff _ _ _).mpr ⟨h1, h4, hw1, hw32, hfit⟩
  rw [exec_fxBits_of_legal hlegal]
  refine ⟨fun hib => extractWith_of_absent hib _ _ _, fun m hm h => extractWith_of_lt hm h _, fun m hm h => ?inRange⟩
  case inRange =>
    rw [extractWith_of_le hm h, be_read]
    rfl

end Sys2Proof.Machine
end

section
/-! SUPPORT. The pack commands (41_field_extract.md R131 to R133): the legality check, then the bounds check and the
write that they share. -/

namespace Sys2Proof.Machine

/-! ### The shared end: bounds, write -/

theorem packWith_of_absent {s : State} (h : s.ob = none) (off n : Nat) (bytes : List Byte → List Byte) :
    packWith off n bytes s = .next (raiseErr .nothing .outOfRange s) := by
  unfold packWith
  rw [h]

theorem packWith_of_lt {s : State} {m : Memory} (hm : s.ob = some m) {off n : Nat} (h : m.len < off + n)
    (bytes : List Byte → List Byte) :
    packWith off n bytes s = .next (raiseErr .nothing .outOfRange s) := by
  unfold packWith
  rw [hm]
  exact if_pos h

theorem packWith_of_le {s : State} {m : Memory} (hm : s.ob = some m) {off n : Nat} (h : off + n ≤ m.len)
    (bytes : List Byte → List Byte) :
    packWith off n bytes s = .next (succeed { s with ob := some (m.write off (bytes (m.read off n))) }) := by
  unfold packWith
  rw [hm]
  exact if_neg (Nat.not_lt.mpr h)

theorem Memory.byte_write_inside {m : Memory} {off : Nat} {bytes : List Byte} (hw : m.wf = true)
    (h : off + bytes.length ≤ m.len) {i : Nat} (hi : i < bytes.length) :
    (m.write off bytes).byte (off + i) = bytes.getD i 0 := by
  rw [Memory.byte_write hw h, if_pos (by omega), Nat.add_sub_cancel_left]

theorem Memory.byte_write_outside {m : Memory} {off : Nat} {bytes : List Byte} (hw : m.wf = true)
    (h : off + bytes.length ≤ m.len) {a : Nat} (ha : a < off ∨ off + bytes.length ≤ a) :
    (m.write off bytes).byte a = m.byte a := by
  rw [Memory.byte_write hw h, if_neg (by omega)]

/-- What a successful pack command leaves: OB canonical and of the same length, the `n` bytes it makes at `off`, and every
other byte as before (R64). -/
theorem packWith_writes {s : State} {m : Memory} (hm : s.ob = some m) (hw : m.wf = true) {off n : Nat}
    (h : off + n ≤ m.len) {bytes : List Byte → List Byte} (hlen : ∀ old, (bytes old).length = n) :
    ∃ o, packWith off n bytes s = .next { s with ob := some o, err := .ok } ∧ o.wf = true ∧ o.len = m.len ∧
      (∀ i, i < n → o.byte (off + i) = (bytes (m.read off n)).getD i 0) ∧
      ∀ a, a < off ∨ off + n ≤ a → o.byte a = m.byte a := by
  have hfit : off + (bytes (m.read off n)).length ≤ m.len := (hlen _).symm ▸ h
  exact ⟨_, packWith_of_le hm h bytes, Memory.write_wf hw hfit, Memory.write_len _ _ _,
    fun i hi => Memory.byte_write_inside hw hfit ((hlen _).symm ▸ hi),
    fun a ha => Memory.byte_write_outside hw hfit ((hlen _).symm ▸ ha)⟩

/-! ### PK.BE -/

theorem exec_pkBe_of_legal {s : State} (h : 1 ≤ s.opN ∧ s.opN ≤ 4) :
    exec .pkBe s = packWith s.opOff s.opN (fun _ => beBytes s.arg2.toNat s.opN) s :=
  if_pos ((groupLegal_iff _).mpr h)

theorem exec_pkBe_of_illegal {s : State} (h : ¬(1 ≤ s.opN ∧ s.opN ≤ 4)) :
    exec .pkBe s = .next (raiseErr .nothing .illegalCommand s) :=
  if_neg (mt (groupLegal_iff _).mp h)

/-- Settles O13: the legality check, then the shared end's three paths, the last of which writes ARG2's bytes, the
most significant first. -/
theorem pkBeWritesBigEndian : Obligations.PkBeWritesBigEndian := by
  refine ⟨decodeOpcode_encodeOpcode .pkBe, fun s off n (hoff : off = s.opOff) (hn : n = s.opN) => ?_⟩
  subst hoff hn
  refine ⟨fun h => exec_pkBe_of_illegal (by omega), ?absent, ?outOfRange, ?inRange⟩
  case absent =>
    intro h1 h4 hob
    exact (exec_pkBe_of_legal ⟨h1, h4⟩).trans (packWith_of_absent hob _ _ _)
  case outOfRange =>
    intro h1 h4 m hm h
    exact (exec_pkBe_of_legal ⟨h1, h4⟩).trans (packWith_of_lt hm h _)
  case inRange =>
    intro h1 h4 m hm hw h
    rw [exec_pkBe_of_legal ⟨h1, h4⟩]
    obtain ⟨o, hexec, hwf, hlen, hinside, houtside⟩ :=
      packWith_writes hm hw h fun _ => length_beBytes s.arg2.toNat s.opN
    exact ⟨o, hexec, hwf, hlen, fun i hi => (hinside i hi).trans (getD_beBytes_toNat s.arg2 hi), houtside⟩

/-! ### PK.REV32 -/

theorem exec_pkRev32 (s : State) : exec .pkRev32 s = packWith s.opOff 4 (fun _ => revBytes s.arg2.toNat 4) s := rfl

/-- Settles O14: the shared end's three paths, the last of which writes ARG2's bytes, the least significant first. -/
theorem pkRev32WritesReversed : Obligations.PkRev32WritesReversed := by
  refine ⟨decodeOpcode_encodeOpcode .pkRev32, fun s off (hoff : off = s.opOff) => ?_⟩
  subst hoff
  rw [exec_pkRev32]
  refine ⟨fun hob => packWith_of_absent hob _ _ _, fun m hm h => packWith_of_lt hm h _, fun m hm hw h => ?inRange⟩
  case inRange =>
    obtain ⟨o, hexec, hwf, hlen, hinside, houtside⟩ :=
      packWith_writes hm hw h fun _ => length_revBytes s.arg2.toNat 4
    exact ⟨o, hexec, hwf, hlen, fun i hi => (hinside i hi).trans (getD_revBytes_toNat s.arg2 hi), houtside⟩

/-! ### PK.BITS -/

theorem exec_pkBits_of_legal {s : State} (h : fieldLegal s.opN s.opLsb s.opW = true) :
    exec .pkBits s = packWith s.opOff s.opN (insertedGroup s.opN s.opLsb s.opW s.arg2) s :=
  if_pos h

theorem exec_pkBits_of_illegal {s : State} (h : ¬fieldLegal s.opN s.opLsb s.opW = true) :
    exec .pkBits s = .next (raiseErr .nothing .illegalCommand s) :=
  if_neg h

/-- Settles O15: the legality check, then the shared end's three paths, the last of which writes the group back with
the field inserted. -/
theorem pkBitsWritesField : Obligations.PkBitsWritesField := by
  refine ⟨decodeOpcode_encodeOpcode .pkBits, fun s off n lsb w (hoff : off = s.opOff) (hn : n = s.opN)
    (hlsb : lsb = s.opLsb) (hw : w = s.opW) => ?_⟩
  subst hoff hn hlsb hw
  refine ⟨fun h => exec_pkBits_of_illegal ?illegal, fun h1 h4 hw1 hw32 hfit => ?_⟩
  case illegal =>
    rw [fieldLegal_iff]
    omega
  have hlegal : fieldLegal s.opN s.opLsb s.opW = true := (fieldLegal_iff _ _ _).mpr ⟨h1, h4, hw1, hw32, hfit⟩
  rw [exec_pkBits_of_legal hlegal]
  refine ⟨fun hob => packWith_of_absent hob _ _ _, fun m hm h => packWith_of_lt hm h _, fun m hm hw h => ?inRange⟩
  case inRange =>
    obtain ⟨o, hexec, hwf, hlen, hinside, houtside⟩ :=
      packWith_writes hm hw h (length_insertedGroup s.opN s.opLsb s.opW s.arg2)
    refine ⟨o, hexec, hwf, hlen, fun j hj => ?_, houtside⟩
    have hi : s.opN - 1 - j / 8 < s.opN := by omega
    rw [hinside _ hi, getLsbD_insertedGroup s.arg2 (Memory.length_read m _ _) h4 hfit hj, Memory.getD_read _ _ _ _ _ hi]

end Sys2Proof.Machine
end

section
/-! SUPPORT. The SPTP and ICD headers (42_parse_sptp_icd.md R150 to R153): the fields that the header bytes decode to,
bit by bit, the two ways a PARSE command ends (R155), and the paths of PARSE.SPTP and PARSE.ICD. -/

namespace Sys2Proof.Machine

/-! ### Fields of a two-byte group -/

/-- R122 on a word: a slice is the extracted bits. -/
theorem ofNat_slice_toNat {n : Nat} (x : BitVec n) (lsb w : Nat) :
    BitVec.ofNat w (slice x.toNat lsb w) = x.extractLsb' lsb w := by
  apply BitVec.eq_of_toNat_eq
  rw [BitVec.toNat_ofNat, slice, Nat.mod_mod, BitVec.extractLsb'_toNat, Nat.shiftRight_eq_div_pow]

theorem group16_eq_toNat (hi lo : Byte) : group16 hi lo = (hi ++ lo).toNat := by
  rw [toNat_append_byte]
  simp [group16, be]

/-- R136, a field inside the first byte of the group. -/
theorem ofNat_slice_group16_high (hi lo : Byte) (lsb w : Nat) :
    BitVec.ofNat w (slice (group16 hi lo) (lsb + 8) w) = hi.extractLsb' lsb w := by
  rw [group16_eq_toNat, ofNat_slice_toNat, BitVec.extractLsb'_append_eq_of_le (Nat.le_add_left 8 lsb),
    Nat.add_sub_cancel]

/-- R136, a field that spans the low bits of the first byte and all of the second. -/
theorem ofNat_slice_group16_low (hi lo : Byte) {k : Nat} (h : k ≤ 8) :
    BitVec.ofNat (k + 8) (slice (group16 hi lo) 0 (k + 8)) = hi.extractLsb' 0 k ++ lo := by
  rw [group16_eq_toNat, ofNat_slice_toNat, ← BitVec.setWidth_eq_extractLsb' (Nat.add_le_add_right h 8),
    ← BitVec.setWidth_eq_extractLsb' h, BitVec.setWidth_append_of_eq rfl, BitVec.setWidth_eq]

/-- R136, a field that is the whole group. -/
theorem ofNat_group16 (hi lo : Byte) : BitVec.ofNat 16 (group16 hi lo) = hi ++ lo := by
  rw [group16_eq_toNat]
  exact (BitVec.ofNat_toNat 16 _).trans (BitVec.setWidth_eq _)

/-! ### The headers of a buffer -/

/-- R150: the four bytes read are the SPTP fields. -/
theorem sptpRegs_read (m : Memory) : sptpRegs (m.read 0 4) = m.sptpAt := by
  rw [Memory.read_eq]
  rfl

/-- The formulas of R136 give R153's table, row by row. -/
theorem unpackIcd_bytes (i0 i1 i2 i3 i4 i5 : Byte) :
    unpackIcd [i0, i1, i2, i3, i4, i5] =
      { version := i0.extractLsb' 5 3, type := i0.extractLsb' 4 1, flag := i0.extractLsb' 3 1,
        apid := i0.extractLsb' 0 3 ++ i1, segment := i2.extractLsb' 6 2, counter := i2.extractLsb' 0 6 ++ i3,
        size := i4 ++ i5 } := by
  rw [← ofNat_slice_group16_high i0 i1 5 3, ← ofNat_slice_group16_high i0 i1 4 1,
    ← ofNat_slice_group16_high i0 i1 3 1, ← ofNat_slice_group16_low i0 i1 (k := 3) (by decide),
    ← ofNat_slice_group16_high i2 i3 6 2, ← ofNat_slice_group16_low i2 i3 (k := 6) (by decide),
    ← ofNat_group16 i4 i5]
  rfl

/-- R152: the six bytes after the SPTP header are the ICD fields. -/
theorem unpackIcd_read (m : Memory) : unpackIcd (m.read 4 6) = m.icdAt := by
  rw [Memory.read_eq]
  exact unpackIcd_bytes (m.byte 4) (m.byte 5) (m.byte 6) (m.byte 7) (m.byte 8) (m.byte 9)

/-! ### How a PARSE command ends -/

/-- R155, R266: all that a failing PARSE command writes. -/
theorem failParse_eq (k : FrameKind) (e : Err) (s : State) :
    failParse k e s =
      { s with frame := none, err := e, sticky := true, busy := false, hid := hiddenAfterFail k e s.hid } := rfl

/-- R155: all that a commit writes. -/
theorem commitFrame_eq (f : Frame) (h : Hidden) (s : State) :
    commitFrame f h s = { s with frame := some f, err := .ok, busy := false, hid := h } := rfl

/-! ### PARSE.SPTP -/

theorem exec_parseSptp (s : State) : exec .parseSptp s = execParseSptp s := rfl

theorem execParseSptp_of_absent {s : State} (h : s.ib = none) :
    execParseSptp s = .next (failParse .sptp .nullInput s) := by
  unfold execParseSptp
  rw [h]

theorem execParseSptp_of_lt {s : State} {m : Memory} (hm : s.ib = some m) (h : m.len < 4) :
    execParseSptp s = .next (failParse .sptp .frameTooShort s) := by
  unfold execParseSptp
  rw [hm]
  exact if_pos h

theorem execParseSptp_of_le {s : State} {m : Memory} (hm : s.ib = some m) (h : 4 ≤ m.len) :
    execParseSptp s = .next (commitFrame (sptpFrame (m.read 0 4) m.len)
      (hiddenAfterCommit .sptp 4 (m.read 0 4) s.cfg.crcInit s.hid) s) := by
  unfold execParseSptp
  rw [hm]
  exact if_neg (Nat.not_lt.mpr h)

/-- R150: the frame of a buffer's first four bytes. -/
theorem sptpFrame_read (m : Memory) :
    sptpFrame (m.read 0 4) m.len =
      { Frame.blank .sptp with sptp := m.sptpAt, pay0 := ⟨4, BitVec.ofNat 32 (m.len - 4)⟩ } := by
  rw [sptpFrame, sptpRegs_read]
  rfl

/-- Settles O16: one lemma per path of R150; on the last one the bytes read are the fields of the header. -/
theorem parseSptpCommitsFrame : Obligations.ParseSptpCommitsFrame := by
  refine ⟨decodeOpcode_encodeOpcode .parseSptp, fun s => ⟨?absent, ?tooShort, ?parsed⟩⟩
  case absent =>
    intro h
    rw [exec_parseSptp, execParseSptp_of_absent h, failParse_eq]
    exact ⟨_, rfl⟩
  case tooShort =>
    intro m hm h
    rw [exec_parseSptp, execParseSptp_of_lt hm h, failParse_eq]
    exact ⟨_, rfl⟩
  case parsed =>
    intro m hm h
    rw [exec_parseSptp, execParseSptp_of_le hm h, commitFrame_eq, sptpFrame_read]
    exact ⟨_, rfl⟩

/-! ### PARSE.ICD -/

theorem exec_parseIcd (s : State) : exec .parseIcd s = execParseIcd s := rfl

theorem execParseIcd_of_absent {s : State} (h : s.ib = none) :
    execParseIcd s = .next (failParse .icd .nullInput s) := by
  unfold execParseIcd
  rw [h]

/-- R152: its two length checks raise the same error, so together they are `LEN < 10`. -/
theorem execParseIcd_of_lt {s : State} {m : Memory} (hm : s.ib = some m) (h : m.len < 10) :
    execParseIcd s = .next (failParse .icd .frameTooShort s) := by
  unfold execParseIcd
  rw [hm]
  by_cases hsptp : m.len < 4
  · exact if_pos hsptp
  · have hicd : m.len - 4 < 6 := by omega
    exact (if_neg hsptp).trans (if_pos hicd)

theorem execParseIcd_of_le {s : State} {m : Memory} (hm : s.ib = some m) (h : 10 ≤ m.len) :
    execParseIcd s = .next (commitFrame (icdFrame (m.read 0 4) (m.read 4 6) m.len)
      (hiddenAfterCommit .icd 10 (m.read 0 10) s.cfg.crcInit s.hid) s) := by
  have hsptp : ¬m.len < 4 := by omega
  have hicd : ¬m.len - 4 < 6 := by omega
  unfold execParseIcd
  rw [hm]
  exact (if_neg hsptp).trans (if_neg hicd)

/-- R152: the frame of a buffer's two headers. -/
theorem icdFrame_read (m : Memory) :
    icdFrame (m.read 0 4) (m.read 4 6) m.len =
      { Frame.blank .icd with
        sptp := m.sptpAt, icd := m.icdAt,
        pay0 := ⟨4, BitVec.ofNat 32 (m.len - 4)⟩, pay1 := ⟨10, BitVec.ofNat 32 (m.len - 10)⟩ } := by
  rw [icdFrame, sptpRegs_read, unpackIcd_read]
  rfl

/-- Settles O17: one lemma per path of R152; on the last one the bytes read are the fields of the two headers. -/
theorem parseIcdCommitsFrame : Obligations.ParseIcdCommitsFrame := by
  refine ⟨decodeOpcode_encodeOpcode .parseIcd, fun s => ⟨?absent, ?tooShort, ?parsed⟩⟩
  case absent =>
    intro h
    rw [exec_parseIcd, execParseIcd_of_absent h, failParse_eq]
    exact ⟨_, rfl⟩
  case tooShort =>
    intro m hm h
    rw [exec_parseIcd, execParseIcd_of_lt hm h, failParse_eq]
    exact ⟨_, rfl⟩
  case parsed =>
    intro m hm h
    rw [exec_parseIcd, execParseIcd_of_le hm h, commitFrame_eq, icdFrame_read]
    exact ⟨_, rfl⟩

end Sys2Proof.Machine
end

section
/-! SUPPORT. The parses of 43_parse_tm_tk_obt.md (R170, R171, R173, R177): the sub-header, the trailer, the covered
bytes and the record's Value as the bytes of the buffer they are read from, and the paths of PARSE.TM and PARSE.TK,
which share them, and of PARSE.OBT. -/

namespace Sys2Proof.Machine

/-! ### The sub-header, the trailer and the covered bytes -/

/-- R120 on four bytes: the first byte read is the highest of the word. -/
theorem ofNat_be_read_four (m : Memory) (off : Nat) :
    BitVec.ofNat 32 (be (m.read off 4)) =
      m.byte off ++ m.byte (off + 1) ++ m.byte (off + 2) ++ m.byte (off + 3) := by
  have hread : m.read off 4 = [m.byte off, m.byte (off + 1), m.byte (off + 2), m.byte (off + 3)] :=
    Memory.read_eq m off 4
  have hbe : be (m.read off 4) =
      (m.byte off ++ m.byte (off + 1) ++ m.byte (off + 2) ++ m.byte (off + 3)).toNat := by
    rw [hread, toNat_append_byte, toNat_append_byte, toNat_append_byte]
    simp [be]
  rw [hbe]
  exact (BitVec.ofNat_toNat 32 _).trans (BitVec.setWidth_eq _)

/-- R173: the trailer is the last two bytes of the buffer. -/
theorem ofNat_be_read_trailer {m : Memory} (h : 2 ≤ m.len) :
    BitVec.ofNat 16 (be (m.read (m.len - 2) 2)) = m.byte (m.len - 2) ++ m.byte (m.len - 1) := by
  have hlast : m.len - 1 = m.len - 2 + 1 := by omega
  rw [hlast, Memory.read_eq]
  exact ofNat_group16 (m.byte (m.len - 2)) (m.byte (m.len - 2 + 1))

/-- R173: the coverage `IB[4 .. LEN-2)`. -/
theorem read_covered (m : Memory) : m.read 4 (m.len - 6) = m.covered := Memory.read_eq m 4 (m.len - 6)

/-! ### PARSE.TM and PARSE.TK -/

theorem exec_parseTm (s : State) : exec .parseTm s = parseTmTk .tm s := rfl

theorem exec_parseTk (s : State) : exec .parseTk s = parseTmTk .tk s := rfl

theorem parseTmTk_of_absent {s : State} (h : s.ib = none) (k : FrameKind) :
    parseTmTk k s = .next (failParse k .nullInput s) := by
  unfold parseTmTk
  rw [h]

theorem parseTmTk_of_lt {s : State} {m : Memory} (hm : s.ib = some m) (h : m.len < 16) (k : FrameKind) :
    parseTmTk k s = .next (failParse k .frameTooShort s) := by
  unfold parseTmTk
  rw [hm]
  exact if_pos h

theorem parseTmTk_of_le {s : State} {m : Memory} (hm : s.ib = some m) (h : 16 ≤ m.len) (k : FrameKind) :
    parseTmTk k s = .next (commitFrame
      (tmtkFrame k (m.read 0 4) (m.read 4 6) (m.read 10 4) (m.read (m.len - 2) 2)
        (crc16 s.cfg (m.read 4 (m.len - 6))) m.len)
      (hiddenAfterCommit k m.len (m.read 0 14 ++ m.read (m.len - 2) 2)
        (crcFold s.cfg s.cfg.crcInit (m.read 4 (m.len - 6))) s.hid) s) := by
  unfold parseTmTk
  rw [hm]
  exact if_neg (Nat.not_lt.mpr h)

/-- The frame that R170 commits, laid out over the buffer: its two headers, its sub-header, its last two bytes, and
Size as it stands in PAY2 (R174). `tmtkFrame_read` says that the model's frame is this one. -/
def Memory.tmtkAt (m : Memory) (c : Config) (k : FrameKind) : Frame :=
  { Frame.blank k with
    sptp := m.sptpAt, icd := m.icdAt,
    tmtk := ⟨m.byte 10 ++ m.byte 11 ++ m.byte 12 ++ m.byte 13,
      m.byte (m.len - 2) ++ m.byte (m.len - 1), crc16 c m.covered⟩,
    pay0 := ⟨4, BitVec.ofNat 32 (m.len - 4)⟩, pay1 := ⟨10, BitVec.ofNat 32 (m.len - 10)⟩,
    pay2 := ⟨14, m.icdAt.size.setWidth 32⟩ }

theorem tmtkFrame_read {m : Memory} (h : 2 ≤ m.len) (k : FrameKind) (c : Config) :
    tmtkFrame k (m.read 0 4) (m.read 4 6) (m.read 10 4) (m.read (m.len - 2) 2)
      (crc16 c (m.read 4 (m.len - 6))) m.len = m.tmtkAt c k := by
  rw [tmtkFrame, sptpRegs_read, unpackIcd_read, ofNat_be_read_four, ofNat_be_read_trailer h, read_covered]
  rfl

/-- R170, R171: what the parse that PARSE.TM and PARSE.TK share does on each of its paths, for either kind. -/
theorem parseTmTk_commitsFrame (k : FrameKind) (s : State) :
    (s.ib = none → ∃ h, parseTmTk k s =
      .next { s with frame := none, err := .nullInput, sticky := true, busy := false, hid := h }) ∧
    (∀ m, s.ib = some m → m.len < 16 → ∃ h, parseTmTk k s =
      .next { s with frame := none, err := .frameTooShort, sticky := true, busy := false, hid := h }) ∧
    (∀ m, s.ib = some m → 16 ≤ m.len → ∃ h, parseTmTk k s =
      .next { s with frame := some (m.tmtkAt s.cfg k), err := .ok, busy := false, hid := h }) := by
  refine ⟨?absent, ?tooShort, ?parsed⟩
  case absent =>
    intro h
    rw [parseTmTk_of_absent h, failParse_eq]
    exact ⟨_, rfl⟩
  case tooShort =>
    intro m hm h
    rw [parseTmTk_of_lt hm h, failParse_eq]
    exact ⟨_, rfl⟩
  case parsed =>
    intro m hm h
    rw [parseTmTk_of_le hm h, commitFrame_eq, tmtkFrame_read (by omega)]
    exact ⟨_, rfl⟩

/-- Settles O18: R170 is the shared parse with kind TM. -/
theorem parseTmCommitsFrame : Obligations.ParseTmCommitsFrame := by
  refine ⟨decodeOpcode_encodeOpcode .parseTm, fun s => ?_⟩
  rw [exec_parseTm]
  exact parseTmTk_commitsFrame .tm s

/-- Settles O19: R171 is the shared parse with kind TK. -/
theorem parseTkCommitsFrame : Obligations.ParseTkCommitsFrame := by
  refine ⟨decodeOpcode_encodeOpcode .parseTk, fun s => ?_⟩
  rw [exec_parseTk]
  exact parseTmTk_commitsFrame .tk s

/-! ### PARSE.OBT -/

theorem exec_parseObt (s : State) : exec .parseObt s = execParseObt s := rfl

theorem execParseObt_of_absent {s : State} (h : s.ib = none) :
    execParseObt s = .next (failParse .obt .nullInput s) := by
  unfold execParseObt
  rw [h]

theorem execParseObt_of_ne {s : State} {m : Memory} (hm : s.ib = some m) (h : m.len ≠ 16) :
    execParseObt s = .next (failParse .obt .frameWrongLength s) := by
  unfold execParseObt
  rw [hm]
  exact if_neg h

theorem execParseObt_of_eq {s : State} {m : Memory} (hm : s.ib = some m) (h : m.len = 16) :
    execParseObt s = .next (commitFrame (obtFrame (m.read 0 4) (m.read 4 6) (m.read 10 6))
      (hiddenAfterCommit .obt 16 (m.read 0 16) s.cfg.crcInit s.hid) s) := by
  unfold execParseObt
  rw [hm]
  exact if_pos h

/-- R177, R66: the record is Normal, Extended and the four bytes of Value, the first of them the lowest. -/
theorem obtFrame_read (m : Memory) :
    obtFrame (m.read 0 4) (m.read 4 6) (m.read 10 6) =
      { Frame.blank .obt with
        sptp := m.sptpAt, icd := m.icdAt,
        obt := ⟨m.byte 10, m.byte 11, m.byte 15 ++ m.byte 14 ++ m.byte 13 ++ m.byte 12⟩,
        pay0 := ⟨4, 12⟩, pay1 := ⟨10, 6⟩ } := by
  have hvalue : (m.read 10 6).drop 2 = m.read 12 4 := by
    rw [Memory.read_add m 10 2 4, List.drop_left' (Memory.length_read m 10 2)]
  rw [obtFrame, sptpRegs_read, unpackIcd_read, hvalue, ofNat_rev_read_four, Memory.getD_read m 10 6 0 0 (by decide),
    Memory.getD_read m 10 6 1 0 (by decide)]

/-- Settles O20: one lemma per path of R177; on the last one the bytes read are the two headers and the record. -/
theorem parseObtCommitsFrame : Obligations.ParseObtCommitsFrame := by
  refine ⟨decodeOpcode_encodeOpcode .parseObt, fun s => ⟨?absent, ?wrongLength, ?parsed⟩⟩
  case absent =>
    intro h
    rw [exec_parseObt, execParseObt_of_absent h, failParse_eq]
    exact ⟨_, rfl⟩
  case wrongLength =>
    intro m hm h
    rw [exec_parseObt, execParseObt_of_ne hm h, failParse_eq]
    exact ⟨_, rfl⟩
  case parsed =>
    intro m hm h
    rw [exec_parseObt, execParseObt_of_eq hm h, commitFrame_eq, obtFrame_read]
    exact ⟨_, rfl⟩

end Sys2Proof.Machine
end

section
/-! SUPPORT. The parses of 44_parse_hsi_timecode.md (R190, R193): Line and Size of the HSI header as the bits of bytes 2
and 3, the byte of a time code, and the paths of PARSE.HSI and PARSE.TC. -/

namespace Sys2Proof.Machine

/-! ### PARSE.HSI -/

theorem exec_parseHsi (s : State) : exec .parseHsi s = execParseHsi s := rfl

theorem execParseHsi_of_absent {s : State} (h : s.ib = none) :
    execParseHsi s = .next (failParse .hsi .nullInput s) := by
  unfold execParseHsi
  rw [h]

theorem execParseHsi_of_lt {s : State} {m : Memory} (hm : s.ib = some m) (h : m.len < 4) :
    execParseHsi s = .next (failParse .hsi .frameTooShort s) := by
  unfold execParseHsi
  rw [hm]
  exact if_pos h

theorem execParseHsi_of_le {s : State} {m : Memory} (hm : s.ib = some m) (h : 4 ≤ m.len) :
    execParseHsi s = .next (commitFrame (hsiFrame (m.read 0 4) m.len)
      (hiddenAfterCommit .hsi 4 (m.read 0 4) s.cfg.crcInit s.hid) s) := by
  unfold execParseHsi
  rw [hm]
  exact if_neg (Nat.not_lt.mpr h)

/-- R190 on any four bytes: Line is the top bit of the last two, Size their other fifteen. -/
theorem hsiFrame_bytes (h0 h1 h2 h3 : Byte) (len : Nat) :
    hsiFrame [h0, h1, h2, h3] len =
      { Frame.blank .hsi with
        hsi := ⟨h0, h1, h2.extractLsb' 7 1, h2.extractLsb' 0 7 ++ h3⟩,
        pay0 := ⟨4, BitVec.ofNat 32 (len - 4)⟩ } := by
  rw [← ofNat_slice_group16_high h2 h3 7 1, ← ofNat_slice_group16_low h2 h3 (k := 7) (by decide)]
  rfl

/-- R190: the frame of a buffer's first four bytes. -/
theorem hsiFrame_read (m : Memory) :
    hsiFrame (m.read 0 4) m.len =
      { Frame.blank .hsi with
        hsi := ⟨m.byte 0, m.byte 1, (m.byte 2).extractLsb' 7 1, (m.byte 2).extractLsb' 0 7 ++ m.byte 3⟩,
        pay0 := ⟨4, BitVec.ofNat 32 (m.len - 4)⟩ } := by
  rw [Memory.read_eq]
  exact hsiFrame_bytes (m.byte 0) (m.byte 1) (m.byte 2) (m.byte 3) m.len

/-- Settles O21: one lemma per path of R190; on the last one the bytes read are the fields of the HSI header. -/
theorem parseHsiCommitsFrame : Obligations.ParseHsiCommitsFrame := by
  refine ⟨decodeOpcode_encodeOpcode .parseHsi, fun s => ⟨?absent, ?tooShort, ?parsed⟩⟩
  case absent =>
    intro h
    rw [exec_parseHsi, execParseHsi_of_absent h, failParse_eq]
    exact ⟨_, rfl⟩
  case tooShort =>
    intro m hm h
    rw [exec_parseHsi, execParseHsi_of_lt hm h, failParse_eq]
    exact ⟨_, rfl⟩
  case parsed =>
    intro m hm h
    rw [exec_parseHsi, execParseHsi_of_le hm h, commitFrame_eq, hsiFrame_read]
    exact ⟨_, rfl⟩

/-! ### PARSE.TC -/

theorem exec_parseTc (s : State) : exec .parseTc s = execParseTc s := rfl

theorem execParseTc_of_absent {s : State} (h : s.ib = none) :
    execParseTc s = .next (failParse .tc .nullInput s) := by
  unfold execParseTc
  rw [h]

/-- R194: the error of an empty buffer, for either binding of TC_SHORT_ERR. -/
theorem execParseTc_of_empty {s : State} {m : Memory} (hm : s.ib = some m) (h : m.len = 0) :
    execParseTc s = .next (failParse .tc (shortErr s.cfg.tcShortErr) s) := by
  unfold execParseTc
  rw [hm]
  exact if_pos h

theorem execParseTc_of_le {s : State} {m : Memory} (hm : s.ib = some m) (h : 2 ≤ m.len) :
    execParseTc s = .next (failParse .tc .frameWrongLength s) := by
  have hne0 : m.len ≠ 0 := by omega
  have hne1 : m.len ≠ 1 := by omega
  unfold execParseTc
  rw [hm]
  exact (if_neg hne0).trans (if_neg hne1)

theorem execParseTc_of_eq {s : State} {m : Memory} (hm : s.ib = some m) (h : m.len = 1) :
    execParseTc s = .next (commitFrame (tcFrame (m.read 0 1))
      (hiddenAfterCommit .tc 1 (m.read 0 1) s.cfg.crcInit s.hid) s) := by
  have hne0 : m.len ≠ 0 := by omega
  unfold execParseTc
  rw [hm]
  exact (if_neg hne0).trans (if_pos h)

/-- R193: the frame of a buffer's one byte. -/
theorem tcFrame_read (m : Memory) :
    tcFrame (m.read 0 1) = { Frame.blank .tc with tcValue := m.byte 0, pay0 := ⟨0, 1⟩ } := by
  rw [Memory.read_eq]
  rfl

/-- Settles O22: one lemma per path of R193; the two cases of an empty buffer are the two bindings of TC_SHORT_ERR. -/
theorem parseTcCommitsFrame : Obligations.ParseTcCommitsFrame := by
  refine ⟨decodeOpcode_encodeOpcode .parseTc,
    fun s => ⟨?absent, ?emptyWrongLength, ?emptyTooShort, ?tooLong, ?parsed⟩⟩
  case absent =>
    intro h
    rw [exec_parseTc, execParseTc_of_absent h, failParse_eq]
    exact ⟨_, rfl⟩
  case emptyWrongLength =>
    intro m hm h hcfg
    rw [exec_parseTc, execParseTc_of_empty hm h, hcfg, failParse_eq]
    exact ⟨_, rfl⟩
  case emptyTooShort =>
    intro m hm h hcfg
    rw [exec_parseTc, execParseTc_of_empty hm h, hcfg, failParse_eq]
    exact ⟨_, rfl⟩
  case tooLong =>
    intro m hm h
    rw [exec_parseTc, execParseTc_of_le hm h, failParse_eq]
    exact ⟨_, rfl⟩
  case parsed =>
    intro m hm h
    rw [exec_parseTc, execParseTc_of_eq hm h, commitFrame_eq, tcFrame_read]
    exact ⟨_, rfl⟩

end Sys2Proof.Machine
end

section
/-! SUPPORT. The byte-serial parser against the atomic commands (45_parser_fsm.md R203 to R216): the state it is in
while it reads, what each reading state of its graph consumes, the run through them kind by kind, and its agreement
with `exec` in every register, the hidden ones included. -/

namespace Sys2Proof.Machine

/-! ### Runs of micro-steps -/

theorem microRun_succ (n : Nat) (s : State) : microRun (n + 1) s = microStep (microRun n s) := by
  induction n generalizing s with
  | zero => rfl
  | succ n ih => exact ih (microStep s)

/-- Two runs, one after the other. -/
theorem microRun_trans {n k : Nat} {s t u : State} (hn : microRun n s = t) (hk : microRun k t = u) :
    microRun (n + k) s = u := by
  induction k generalizing u with
  | zero => exact hn.trans hk
  | succ k ih => rw [← Nat.add_assoc, microRun_succ, ih rfl, ← microRun_succ, hk]

/-- R203: nothing leaves P_IDLE but the write of an opcode. -/
theorem microStep_of_idle {s : State} (h : s.hid.pstate = .idle) : microStep s = s := by
  unfold microStep
  rw [h]

/-- A parser that is not idle after `n` micro-steps was not idle before. -/
theorem microRun_ne_idle_of_le {n j : Nat} {s : State} (h : (microRun n s).hid.pstate ≠ .idle) (hj : j ≤ n) :
    (microRun j s).hid.pstate ≠ .idle := by
  induction n, hj using Nat.le_induction with
  | base => exact h
  | succ n _ ih =>
    refine ih fun hidle => h ?_
    rw [microRun_succ, microStep_of_idle hidle, hidle]

/-! ### The state while the parser reads -/

/-- The parser in state `st` of a parse of kind `k` that the command began in `s`: `p` bytes consumed, those of
`captured` in SH, `crc` accumulated. `microStep_fsmStart_of_accepted` and `PhaseReads.run` say that the run is in these
states. -/
def midParse (k : FrameKind) (s : State) (st : PState) (p : Nat) (captured : List Byte) (crc : Half) : State :=
  { s with busy := true, hid := { hiddenAfterCommit k p captured crc s.hid with pstate := st } }

/-- The bytes that a reading state keeps, or feeds, if it does so at all. -/
def bytesIf (b : Bool) (bytes : List Byte) : List Byte := if b then bytes else []

@[simp] theorem bytesIf_true (bytes : List Byte) : bytesIf true bytes = bytes := rfl

@[simp] theorem bytesIf_false (bytes : List Byte) : bytesIf false bytes = [] := rfl

theorem bytesIf_append (b : Bool) (l r : List Byte) : bytesIf b (l ++ r) = bytesIf b l ++ bytesIf b r := by
  cases b <;> rfl

/-- R201: one more byte is captured in the slot behind those that hold one. -/
theorem set_captureSlots (captured sh : List Byte) (b : Byte) (h : captured.length < sh.length) :
    (captureSlots captured sh).set captured.length b = captureSlots (captured ++ [b]) sh := by
  rw [captureSlots, List.set_append_right _ _ (le_refl _), Nat.sub_self, List.drop_eq_getElem_cons h,
    List.set_cons_zero, captureSlots, List.length_append, List.length_singleton, List.append_assoc,
    List.singleton_append]

section Consume

variable {k : FrameKind} {s : State} {m : Memory} {p : Nat}

theorem midParse_pos (hp : p < 2 ^ 32) (st : PState) (captured : List Byte) (crc : Half) :
    (midParse k s st p captured crc).hid.pos.toNat = p := Nat.mod_eq_of_lt hp

theorem midParse_nextPos (hp : p + 1 < 2 ^ 32) (st : PState) (captured : List Byte) (crc : Half) :
    (midParse k s st p captured crc).nextPos = p + 1 :=
  (congrArg BitVec.toNat (BitVec.ofNat_add p 1).symm).trans (Nat.mod_eq_of_lt hp)

theorem midParse_posByte (hm : s.ib = some m) (hp : p < 2 ^ 32) (st : PState) (captured : List Byte) (crc : Half) :
    (midParse k s st p captured crc).posByte = m.byte p := by
  unfold State.posByte
  rw [midParse_pos hp, show (midParse k s st p captured crc).ib = some m from hm]

/-- R202: what consuming a byte does to a parse, where the slot, if one is named, is the next free one. -/
theorem consume_midParse (hm : s.ib = some m) (hp : p < 2 ^ 32) (keep feed : Bool) (st after : PState)
    {captured : List Byte} (crc : Half) (hfree : keep = true → captured.length < s.hid.sh.length) :
    consume (if keep then some captured.length else none) feed after (midParse k s st p captured crc) =
      midParse k s after (p + 1) (captured ++ bytesIf keep [m.byte p])
        (crcFold s.cfg crc (bytesIf feed [m.byte p])) := by
  have hpos : BitVec.ofNat 32 p + 1 = BitVec.ofNat 32 (p + 1) := (BitVec.ofNat_add p 1).symm
  unfold consume
  rw [midParse_posByte hm hp]
  unfold midParse hiddenAfterCommit
  rw [hpos]
  cases keep with
  | false =>
    rw [if_neg Bool.false_ne_true, bytesIf_false, List.append_nil]
    cases feed <;> rfl
  | true =>
    rw [if_pos rfl, bytesIf_true, ← set_captureSlots captured s.hid.sh (m.byte p) (hfree rfl)]
    cases feed <;> rfl

end Consume

/-! ### What each reading state consumes -/

/-- The reading state `st` of a parse of kind `k` over the buffer `m`: it consumes the byte at POS into the slot that
`slot` gives, feeds it to the CRC or not, and stays until `stop` bytes are consumed. -/
def PhaseReads (k : FrameKind) (m : Memory) (st : PState) (slot : Nat → Option Nat) (feed : Bool) (stop : Nat)
    (next : PState) : Prop :=
  ∀ u : State, u.hid.pstate = st → u.hid.pkind = some k → u.ib = some m →
    microStep u = consume (slot u.hid.pos.toNat) feed (if u.nextPos = stop then next else st) u

/-- The kinds that have a CRC. -/
def FrameKind.hasCrc (k : FrameKind) : Bool := k == .tm || k == .tk

theorem Hidden.isTmTk_eq {h : Hidden} {k : FrameKind} (hk : h.pkind = some k) : h.isTmTk = k.hasCrc := by
  unfold Hidden.isTmTk
  rw [hk]
  rfl

theorem ibLen_eq {s : State} {m : Memory} (hm : s.ib = some m) : s.ibLen = m.len := by
  unfold State.ibLen
  rw [hm]

section Phases

variable (k : FrameKind) (m : Memory)

/-- R205. -/
theorem phaseReads_sptp : PhaseReads k m .sptp some false 4 (if k = .sptp then .commit else .icd) := by
  intro u hst hk _
  simp only [microStep, hst, microSptp, hk, Option.some.injEq]

/-- R206. -/
theorem phaseReads_icd :
    PhaseReads k m .icd some k.hasCrc 10 (if k = .icd then .commit else if k.hasCrc then .sub else .obt) := by
  intro u hst hk _
  simp only [microStep, hst, microIcd, hk, Hidden.isTmTk_eq hk, Option.some.injEq]

/-- R207. -/
theorem phaseReads_sub : PhaseReads k m .sub some true 14 (if m.len = 16 then .crc else .pay) := by
  intro u hst _ hm
  simp only [microStep, hst, microSub, ibLen_eq hm]

/-- R208. -/
theorem phaseReads_pay : PhaseReads k m .pay (fun _ => none) true (m.len - 2) .crc := by
  intro u hst _ hm
  simp only [microStep, hst, microPay, ibLen_eq hm]

/-- R209. -/
theorem phaseReads_crc : PhaseReads k m .crc (fun p => some (14 + (p - (m.len - 2)))) false m.len .commit := by
  intro u hst _ hm
  simp only [microStep, hst, microCrc, ibLen_eq hm]

/-- R210. -/
theorem phaseReads_obt : PhaseReads k m .obt some false 16 .commit := by
  intro u hst _ _
  simp only [microStep, hst, microObt]

/-- R211. -/
theorem phaseReads_hsi : PhaseReads k m .hsi some false 4 .commit := by
  intro u hst _ _
  simp only [microStep, hst, microHsi]

end Phases

theorem crcFold_append (c : Config) (acc : Half) (l r : List Byte) :
    crcFold c acc (l ++ r) = crcFold c (crcFold c acc l) r := List.foldl_append

section Run

variable {k : FrameKind} {s : State} {m : Memory} {st next : PState}

/-- One micro-step in a reading state whose slots, where it names any, are the next free ones. -/
theorem PhaseReads.step {slot : Nat → Option Nat} {feed : Bool} {stop p : Nat}
    (h : PhaseReads k m st slot feed stop next) (hm : s.ib = some m) (hp : p + 1 < 2 ^ 32) (keep : Bool)
    {captured : List Byte} (crc : Half)
    (hslot : ∀ i, slot (p + i) = if keep then some (captured.length + i) else none)
    (hfree : keep = true → captured.length < s.hid.sh.length) :
    microStep (midParse k s st p captured crc) =
      midParse k s (if p + 1 = stop then next else st) (p + 1) (captured ++ bytesIf keep [m.byte p])
        (crcFold s.cfg crc (bytesIf feed [m.byte p])) := by
  have hp' : p < 2 ^ 32 := Nat.lt_of_succ_lt hp
  have hslot0 : slot p = if keep then some captured.length else none := hslot 0
  rw [h (midParse k s st p captured crc) rfl rfl hm, midParse_pos hp', midParse_nextPos hp, hslot0,
    consume_midParse hm hp' _ _ _ _ _ hfree]

/-- R205 to R211: the run through a reading state until it has consumed its last byte. -/
theorem PhaseReads.run {slot : Nat → Option Nat} {feed : Bool} {stop n p : Nat}
    (h : PhaseReads k m st slot feed stop next) (hm : s.ib = some m) (hstop : p + (n + 1) = stop) (hlen : stop < 2 ^ 32)
    (keep : Bool) {captured : List Byte} (crc : Half)
    (hslot : ∀ i, slot (p + i) = if keep then some (captured.length + i) else none)
    (hfree : keep = true → captured.length + (n + 1) ≤ s.hid.sh.length) :
    microRun (n + 1) (midParse k s st p captured crc) =
      midParse k s next stop (captured ++ bytesIf keep (m.read p (n + 1)))
        (crcFold s.cfg crc (bytesIf feed (m.read p (n + 1)))) := by
  induction n generalizing p captured crc with
  | zero =>
    have hstep := h.step hm (by omega) keep crc hslot hfree
    have hlast : p + 1 = stop := hstop
    have hread : m.read p 1 = [m.byte p] := m.read_succ p 0
    rw [if_pos hlast, hlast, ← hread] at hstep
    exact hstep
  | succ n ih =>
    have hstep := h.step hm (by omega) keep crc hslot fun hk => Nat.lt_of_lt_of_le (by omega) (hfree hk)
    have hslot' : ∀ i, slot (p + 1 + i) =
        if keep then some ((captured ++ bytesIf keep [m.byte p]).length + i) else none := by
      intro i
      rw [Nat.add_assoc, hslot (1 + i)]
      cases keep <;> simp [Nat.add_assoc]
    have hfree' : keep = true →
        (captured ++ bytesIf keep [m.byte p]).length + (n + 1) ≤ s.hid.sh.length := by
      rintro rfl
      have := hfree rfl
      rw [bytesIf_true, List.length_append, List.length_singleton]
      omega
    rw [if_neg (by omega)] at hstep
    have hread : m.read p (n + 1 + 1) = [m.byte p] ++ m.read (p + 1) (n + 1) := m.read_succ p (n + 1)
    rw [microRun, hstep, ih (by omega) _ hslot' hfree', hread, bytesIf_append, bytesIf_append, List.append_assoc,
      crcFold_append]

/-- The run through a reading state that captures every byte in the slot of its own address. -/
theorem PhaseReads.run_inOrder {feed : Bool} {stop : Nat} (n : Nat) {p : Nat}
    (h : PhaseReads k m st some feed stop next) (hm : s.ib = some m) (hsh : s.hid.sh.length = 16)
    (hstop : p + (n + 1) = stop) (hfit : stop ≤ 16) (crc : Half) :
    microRun (n + 1) (midParse k s st p (m.read 0 p) crc) =
      midParse k s next stop (m.read 0 stop) (crcFold s.cfg crc (bytesIf feed (m.read p (n + 1)))) := by
  have hread : m.read 0 stop = m.read 0 p ++ m.read p (n + 1) := by
    rw [← hstop, Memory.read_add, Nat.zero_add]
  rw [hread]
  exact h.run hm hstop (by omega) true crc (fun i => by simp) (fun _ => by rw [Memory.length_read, hsh]; omega)

end Run

/-! ### The length check -/

section Check

variable {u : State} {m : Memory}

theorem microCheck_of_absent (h : u.ib = none) : microCheck u = microReject .nullInput u := by
  unfold microCheck
  rw [h]

theorem microCheck_of_refused (hm : u.ib = some m) {e : Err} (h : lengthError u.cfg u.hid.pkind m.len = some e) :
    microCheck u = microReject e u := by
  simp only [microCheck, hm, h]

theorem microCheck_of_accepted (hm : u.ib = some m) (h : lengthError u.cfg u.hid.pkind m.len = none) :
    microCheck u = { u with hid := { u.hid with crcWork := u.cfg.crcInit, pstate := firstCapture u.hid.pkind } } := by
  simp only [microCheck, hm, h]

/-- R203, R204: the write of an opcode puts the parser in P_CHECK. -/
theorem microStep_fsmStart (k : FrameKind) (s : State) : microStep (fsmStart k s) = microCheck (fsmStart k s) := rfl

/-- R204, a length that the kind accepts: the parser begins to read. -/
theorem microStep_fsmStart_of_accepted {k : FrameKind} {s : State} (hm : s.ib = some m)
    (h : lengthError s.cfg (some k) m.len = none) :
    microStep (fsmStart k s) = midParse k s (firstCapture (some k)) 0 [] s.cfg.crcInit :=
  (microStep_fsmStart k s).trans (microCheck_of_accepted hm h)

end Check

/-! ### How a run ends -/

/-- R216: `n` micro-steps after the write of the opcode are the first that leave the parser idle, and what they leave is
the atomic command's next state, hidden registers and all. -/
structure RunAgrees (k : FrameKind) (s : State) (n : Nat) : Prop where
  agrees : exec k.instr s = .next (microRun n (fsmStart k s))
  idle : (microRun n (fsmStart k s)).hid.pstate = .idle
  notBefore : ∀ j, j < n → (microRun j (fsmStart k s)).hid.pstate ≠ .idle

/-- R204, R214: a rejected length ends the run in two micro-steps. -/
theorem RunAgrees.of_reject {k : FrameKind} {s : State} {e : Err}
    (hcheck : microCheck (fsmStart k s) = microReject e (fsmStart k s))
    (hexec : exec k.instr s = .next (failParse k e s)) :
    RunAgrees k s 2 := by
  have hone : microRun 1 (fsmStart k s) = microReject e (fsmStart k s) :=
    (microStep_fsmStart k s).trans hcheck
  have htwo : microRun 2 (fsmStart k s) = failParse k e s := by
    rw [microRun_succ, hone]
    rfl
  have hbusy : (microRun 1 (fsmStart k s)).hid.pstate ≠ .idle := by
    rw [hone]
    exact PState.noConfusion
  exact ⟨by rw [htwo, hexec], by rw [htwo]; rfl, fun j hj => microRun_ne_idle_of_le hbusy (Nat.le_of_lt_succ hj)⟩

/-- R213: a run that has read its bytes ends with the commit. -/
theorem RunAgrees.of_read {k : FrameKind} {s : State} {m : Memory} {n p : Nat} {captured : List Byte} {crc : Half}
    (hm : s.ib = some m) (haccept : lengthError s.cfg (some k) m.len = none)
    (hread : microRun n (midParse k s (firstCapture (some k)) 0 [] s.cfg.crcInit) = midParse k s .commit p captured crc)
    (hexec : exec k.instr s = .next (commitFrame
      (committedFrame s.cfg k (hiddenAfterCommit k p captured crc s.hid) m.len)
      (hiddenAfterCommit k p captured crc s.hid) s)) :
    RunAgrees k s (n + 2) := by
  have hlast : microRun (n + 1) (fsmStart k s) = midParse k s .commit p captured crc := by
    rw [microRun, microStep_fsmStart_of_accepted hm haccept, hread]
  have hend : microRun (n + 2) (fsmStart k s) = commitFrame
      (committedFrame s.cfg k (hiddenAfterCommit k p captured crc s.hid) m.len)
      (hiddenAfterCommit k p captured crc s.hid) s := by
    rw [microRun_succ, hlast, ← ibLen_eq hm]
    cases k <;> rfl
  have hbusy : (microRun (n + 1) (fsmStart k s)).hid.pstate ≠ .idle := by
    rw [hlast]
    exact PState.noConfusion
  exact ⟨by rw [hend, hexec], by rw [hend]; rfl, fun j hj => microRun_ne_idle_of_le hbusy (Nat.le_of_lt_succ hj)⟩

/-! ### A refused buffer -/

theorem exec_instr_of_absent {s : State} (h : s.ib = none) (k : FrameKind) :
    exec k.instr s = .next (failParse k .nullInput s) := by
  cases k with
  | sptp => exact execParseSptp_of_absent h
  | icd => exact execParseIcd_of_absent h
  | tm => exact parseTmTk_of_absent h .tm
  | tk => exact parseTmTk_of_absent h .tk
  | obt => exact execParseObt_of_absent h
  | hsi => exact execParseHsi_of_absent h
  | tc => exact execParseTc_of_absent h

/-- R204's table of lengths is the length checks of the seven PARSE rules. -/
theorem exec_instr_of_refused {s : State} {m : Memory} (hm : s.ib = some m) {k : FrameKind} {e : Err}
    (h : lengthError s.cfg (some k) m.len = some e) : exec k.instr s = .next (failParse k e s) := by
  cases k with
  | sptp =>
    obtain ⟨hlt, rfl⟩ := by simpa [lengthError] using h
    exact execParseSptp_of_lt hm hlt
  | icd =>
    obtain ⟨hlt, rfl⟩ := by simpa [lengthError] using h
    exact execParseIcd_of_lt hm hlt
  | tm =>
    obtain ⟨hlt, rfl⟩ := by simpa [lengthError] using h
    exact parseTmTk_of_lt hm hlt .tm
  | tk =>
    obtain ⟨hlt, rfl⟩ := by simpa [lengthError] using h
    exact parseTmTk_of_lt hm hlt .tk
  | obt =>
    obtain ⟨hne, rfl⟩ := by simpa [lengthError] using h
    exact execParseObt_of_ne hm hne
  | hsi =>
    obtain ⟨hlt, rfl⟩ := by simpa [lengthError] using h
    exact execParseHsi_of_lt hm hlt
  | tc =>
    by_cases hempty : m.len = 0
    · obtain rfl := by simpa [lengthError, hempty] using h
      exact execParseTc_of_empty hm hempty
    · obtain ⟨hne, rfl⟩ := by simpa [lengthError, hempty] using h
      exact execParseTc_of_le hm (by omega)

/-! ### The bytes that P_COMMIT finds in SH -/

theorem slots_of_read {h : Hidden} {m : Memory} {n : Nat} {rest : List Byte} (hsh : h.sh = m.read 0 n ++ rest)
    {lo hi : Nat} (hlo : lo ≤ hi) (hhi : hi ≤ n) : h.slots lo hi = m.read lo (hi - lo) := by
  obtain ⟨r, rfl⟩ := Nat.exists_eq_add_of_le hhi
  obtain ⟨d, rfl⟩ := Nat.exists_eq_add_of_le hlo
  rw [Hidden.slots, hsh, Memory.read_add, List.append_assoc, List.take_left' (Memory.length_read m 0 _),
    Memory.read_add, List.drop_left' (Memory.length_read m 0 _), Nat.zero_add, Nat.add_sub_cancel_left]

theorem slots_of_append {h : Hidden} {l bytes rest : List Byte} (hsh : h.sh = l ++ (bytes ++ rest)) :
    h.slots l.length (l.length + bytes.length) = bytes := by
  rw [Hidden.slots, hsh, ← List.append_assoc, List.take_left' List.length_append, List.drop_left]

section Commit

variable (c : Config) (m : Memory) (p : Nat) (crc : Half) (h : Hidden) (len : Nat)

theorem committedFrame_sptp :
    committedFrame c .sptp (hiddenAfterCommit .sptp p (m.read 0 4) crc h) len = sptpFrame (m.read 0 4) len := by
  rw [committedFrame, slots_of_read (m := m) rfl (by decide) (le_refl 4)]

theorem committedFrame_icd :
    committedFrame c .icd (hiddenAfterCommit .icd p (m.read 0 10) crc h) len =
      icdFrame (m.read 0 4) (m.read 4 6) len := by
  rw [committedFrame, slots_of_read (m := m) (n := 10) rfl (by decide) (by decide),
    slots_of_read (m := m) (n := 10) rfl (by decide) (by decide)]

theorem committedFrame_obt :
    committedFrame c .obt (hiddenAfterCommit .obt p (m.read 0 16) crc h) len =
      obtFrame (m.read 0 4) (m.read 4 6) (m.read 10 6) := by
  rw [committedFrame, slots_of_read (m := m) (n := 16) rfl (by decide) (by decide),
    slots_of_read (m := m) (n := 16) rfl (by decide) (by decide),
    slots_of_read (m := m) (n := 16) rfl (by decide) (by decide)]

theorem committedFrame_hsi :
    committedFrame c .hsi (hiddenAfterCommit .hsi p (m.read 0 4) crc h) len = hsiFrame (m.read 0 4) len := by
  rw [committedFrame, slots_of_read (m := m) rfl (by decide) (le_refl 4)]

theorem committedFrame_tc :
    committedFrame c .tc (hiddenAfterCommit .tc p (m.read 0 1) crc h) len = tcFrame (m.read 0 1) := by
  rw [committedFrame, slots_of_read (m := m) rfl (by decide) (le_refl 1)]

theorem committedFrame_tmtk {k : FrameKind} (hk : k.hasCrc = true) {trailer : List Byte} (ht : trailer.length = 2) :
    committedFrame c k (hiddenAfterCommit k p (m.read 0 14 ++ trailer) crc h) len =
      tmtkFrame k (m.read 0 4) (m.read 4 6) (m.read 10 4) trailer (crcFinal c crc) len := by
  have hsh : (hiddenAfterCommit k p (m.read 0 14 ++ trailer) crc h).sh = m.read 0 14 ++ (trailer ++ h.sh.drop 16) := by
    rw [hiddenAfterCommit_sh, captureSlots, List.append_assoc, List.length_append, ht, Memory.length_read]
  have htrailer := slots_of_append hsh
  rw [Memory.length_read, ht] at htrailer
  have hframe : ∀ h' : Hidden, committedFrame c k h' len =
      tmtkFrame k (h'.slots 0 4) (h'.slots 4 10) (h'.slots 10 14) (h'.slots 14 16) (crcFinal c h'.crcWork) len := by
    intro h'
    cases k with
    | tm | tk => rfl
    | sptp | icd | obt | hsi | tc => exact absurd hk (by decide)
  rw [hframe, slots_of_read hsh (by decide) (by decide), slots_of_read hsh (by decide) (by decide),
    slots_of_read hsh (by decide) (by decide), htrailer]
  rfl

end Commit

/-! ### What each kind reads -/

section Reads

variable {s : State} {m : Memory} (hm : s.ib = some m) (hsh : s.hid.sh.length = 16) (k : FrameKind) (crc : Half)

include hm hsh

theorem microRun_sptp :
    microRun 4 (midParse k s .sptp 0 [] crc) =
      midParse k s (if k = .sptp then .commit else .icd) 4 (m.read 0 4) crc :=
  (phaseReads_sptp k m).run_inOrder 3 hm hsh rfl (by decide) crc

theorem microRun_hsi :
    microRun 4 (midParse k s .hsi 0 [] crc) = midParse k s .commit 4 (m.read 0 4) crc :=
  (phaseReads_hsi k m).run_inOrder 3 hm hsh rfl (by decide) crc

/-- R205, R206: the two headers of the kinds that have both. -/
theorem microRun_headers (hk : k ≠ .sptp) :
    microRun 10 (midParse k s .sptp 0 [] crc) =
      midParse k s (if k = .icd then .commit else if k.hasCrc then .sub else .obt) 10 (m.read 0 10)
        (crcFold s.cfg crc (bytesIf k.hasCrc (m.read 4 6))) := by
  have hsptp := microRun_sptp hm hsh k crc
  rw [if_neg hk] at hsptp
  exact microRun_trans hsptp ((phaseReads_icd k m).run_inOrder 5 hm hsh rfl (by decide) crc)

/-- R210: the headers, then the record. -/
theorem microRun_obt :
    microRun 16 (midParse .obt s .sptp 0 [] crc) = midParse .obt s .commit 16 (m.read 0 16) crc := by
  have hheaders : microRun 10 (midParse .obt s .sptp 0 [] crc) = midParse .obt s .obt 10 (m.read 0 10) crc :=
    microRun_headers hm hsh .obt crc (by decide)
  have hrecord : microRun 6 (midParse .obt s .obt 10 (m.read 0 10) crc) =
      midParse .obt s .commit 16 (m.read 0 16) crc :=
    (phaseReads_obt .obt m).run_inOrder 5 hm hsh rfl (by decide) crc
  show microRun (10 + 6) _ = _
  exact microRun_trans hheaders hrecord

/-- R212: P_TC captures and consumes the one byte of a time code. -/
theorem microStep_tc : microStep (midParse .tc s .tc 0 [] crc) = midParse .tc s .commit 1 (m.read 0 1) crc := by
  have hconsume : microStep (midParse .tc s .tc 0 [] crc) =
      consume (some 0) false .commit (midParse .tc s .tc 0 [] crc) := rfl
  have hread : m.read 0 1 = [m.byte 0] := m.read_succ 0 0
  rw [hconsume, hread]
  exact consume_midParse hm (by decide) true false .tc .commit crc fun _ => by rw [hsh]; decide

omit hsh in
/-- R207, R208: what lies between the sub-header and the trailer; P_PAY is left out when nothing does. -/
theorem microRun_pay (hlen : 16 ≤ m.len) (hmax : m.len < 2 ^ 32) (captured : List Byte) :
    microRun (m.len - 16) (midParse k s (if m.len = 16 then .crc else .pay) 14 captured crc) =
      midParse k s .crc (m.len - 2) captured (crcFold s.cfg crc (m.read 14 (m.len - 16))) := by
  rcases Nat.eq_or_lt_of_le hlen with hnone | hsome
  · rw [← hnone]
    rfl
  · obtain ⟨n, hn⟩ : ∃ n, m.len - 16 = n + 1 := Nat.exists_eq_succ_of_ne_zero (by omega)
    have hpay := (phaseReads_pay k m).run (p := 14) (n := n) (captured := captured) hm (by omega) (by omega) false crc
      (fun _ => rfl) (fun hk => absurd hk Bool.false_ne_true)
    rw [if_neg hsome.ne', hn]
    rwa [bytesIf_false, List.append_nil] at hpay

/-- R209: the two bytes of the trailer. -/
theorem microRun_crc (hlen : 16 ≤ m.len) (hmax : m.len < 2 ^ 32) :
    microRun 2 (midParse k s .crc (m.len - 2) (m.read 0 14) crc) =
      midParse k s .commit m.len (m.read 0 14 ++ m.read (m.len - 2) 2) crc :=
  (phaseReads_crc k m).run (n := 1) hm (by omega) hmax true crc
    (fun i => by rw [Nat.add_sub_cancel_left, Memory.length_read]; rfl)
    (fun _ => by rw [Memory.length_read, hsh])

/-- R205 to R209: the whole of a TM or TK frame, whose bytes from 4 up to the trailer are fed to the CRC. -/
theorem microRun_tmtk (hk : k.hasCrc = true) (hlen : 16 ≤ m.len) (hmax : m.len < 2 ^ 32) :
    microRun m.len (midParse k s .sptp 0 [] crc) =
      midParse k s .commit m.len (m.read 0 14 ++ m.read (m.len - 2) 2) (crcFold s.cfg crc (m.read 4 (m.len - 6))) := by
  have hsptp : k ≠ .sptp := by rintro rfl; exact absurd hk (by decide)
  have hicd : k ≠ .icd := by rintro rfl; exact absurd hk (by decide)
  have hheaders := microRun_headers hm hsh k crc hsptp
  rw [if_neg hicd, if_pos hk, hk, bytesIf_true] at hheaders
  have hsub := (phaseReads_sub k m).run_inOrder 3 hm hsh rfl (by decide) (crcFold s.cfg crc (m.read 4 6))
  have hpay := microRun_pay hm k (crcFold s.cfg (crcFold s.cfg crc (m.read 4 6)) (m.read 10 4)) hlen hmax (m.read 0 14)
  have hcrc := microRun_crc hm hsh k
    (crcFold s.cfg (crcFold s.cfg (crcFold s.cfg crc (m.read 4 6)) (m.read 10 4)) (m.read 14 (m.len - 16))) hlen hmax
  have hcount : 10 + 4 + (m.len - 16) + 2 = m.len := by omega
  have hcovered : m.read 4 (m.len - 6) = m.read 4 6 ++ m.read 10 4 ++ m.read 14 (m.len - 16) := by
    rw [← Memory.read_add, ← Memory.read_add]
    congr 1
    omega
  have hrun := microRun_trans (microRun_trans (microRun_trans hheaders hsub) hpay) hcrc
  rw [hcount] at hrun
  rw [hrun, hcovered, crcFold_append, crcFold_append]

end Reads

/-! ### The agreement -/

section Agreement

variable {s : State} {m : Memory} (hm : s.ib = some m) (hsh : s.hid.sh.length = 16)

include hm hsh

/-- R216 for TM and TK, by the run that they share. -/
theorem RunAgrees.of_tmtk {k : FrameKind} (hk : k.hasCrc = true) (hlen : 16 ≤ m.len) (hmax : m.len < 2 ^ 32)
    (haccept : lengthError s.cfg (some k) m.len = none) (hfirst : firstCapture (some k) = .sptp)
    (hexec : exec k.instr s = parseTmTk k s) : RunAgrees k s (m.len + 2) := by
  refine .of_read hm haccept (hfirst ▸ microRun_tmtk hm hsh k _ hk hlen hmax) ?_
  rw [hexec, parseTmTk_of_le hm hlen, committedFrame_tmtk _ _ _ _ _ _ hk (Memory.length_read m _ 2)]
  rfl

/-- R215, R216 for a buffer that the kind accepts. -/
theorem RunAgrees.of_accepted (hmax : m.len < 2 ^ 32) {k : FrameKind}
    (haccept : lengthError s.cfg (some k) m.len = none) : RunAgrees k s (microCount k s) := by
  cases k with
  | sptp =>
    have hlen : 4 ≤ m.len := by simpa [lengthError] using haccept
    simp only [microCount, hm, haccept]
    refine .of_read (n := 4) hm haccept (microRun_sptp hm hsh .sptp _) ?_
    rw [committedFrame_sptp]
    exact execParseSptp_of_le hm hlen
  | icd =>
    have hlen : 10 ≤ m.len := by simpa [lengthError] using haccept
    simp only [microCount, hm, haccept]
    refine .of_read (n := 10) hm haccept (microRun_headers hm hsh .icd _ (by decide)) ?_
    rw [committedFrame_icd]
    exact execParseIcd_of_le hm hlen
  | tm =>
    have hlen : 16 ≤ m.len := by simpa [lengthError] using haccept
    simp only [microCount, hm, haccept]
    exact .of_tmtk hm hsh rfl hlen hmax haccept rfl (exec_parseTm s)
  | tk =>
    have hlen : 16 ≤ m.len := by simpa [lengthError] using haccept
    simp only [microCount, hm, haccept]
    exact .of_tmtk hm hsh rfl hlen hmax haccept rfl (exec_parseTk s)
  | obt =>
    have hlen : m.len = 16 := by simpa [lengthError] using haccept
    simp only [microCount, hm, haccept]
    refine .of_read (n := 16) hm haccept (microRun_obt hm hsh _) ?_
    rw [committedFrame_obt]
    exact execParseObt_of_eq hm hlen
  | hsi =>
    have hlen : 4 ≤ m.len := by simpa [lengthError] using haccept
    simp only [microCount, hm, haccept]
    refine .of_read (n := 4) hm haccept (microRun_hsi hm hsh .hsi _) ?_
    rw [committedFrame_hsi]
    exact execParseHsi_of_le hm hlen
  | tc =>
    have hlen : m.len = 1 := by
      by_cases hempty : m.len = 0
      · simp [lengthError, hempty] at haccept
      · simpa [lengthError, hempty] using haccept
    simp only [microCount, hm, haccept]
    refine .of_read (n := 1) hm haccept (microStep_tc hm hsh _) ?_
    rw [committedFrame_tc]
    exact execParseTc_of_eq hm hlen

end Agreement

theorem microCount_of_absent {s : State} (h : s.ib = none) (k : FrameKind) : microCount k s = 2 := by
  simp only [microCount, h]

theorem microCount_of_refused {s : State} {m : Memory} (hm : s.ib = some m) {k : FrameKind} {e : Err}
    (h : lengthError s.cfg (some k) m.len = some e) : microCount k s = 2 := by
  simp only [microCount, hm, h]

/-- R216 with the count of R215: the parser's run and the atomic command agree on the whole state. -/
theorem runAgrees_microCount (k : FrameKind) {s : State} (hsh : s.hid.sh.length = 16) (hmax : s.ibLen < 2 ^ 32) :
    RunAgrees k s (microCount k s) := by
  cases hm : s.ib with
  | none =>
    rw [microCount_of_absent hm]
    exact .of_reject (microCheck_of_absent hm) (exec_instr_of_absent hm k)
  | some m =>
    cases hcheck : lengthError s.cfg (some k) m.len with
    | some e =>
      rw [microCount_of_refused hm hcheck]
      exact .of_reject (microCheck_of_refused (u := fsmStart k s) hm hcheck) (exec_instr_of_refused hm hcheck)
    | none => exact .of_accepted hm hsh (ibLen_eq hm ▸ hmax) hcheck

/-- Settles O40: the number of micro-steps is R215's, and the two states are equal before the hidden registers are taken
out. -/
theorem parserRunAgreesWithAtomic : Obligations.ParserRunAgreesWithAtomic := by
  intro k s hsh hmax
  obtain ⟨hexec, hidle, hbefore⟩ := runAgrees_microCount k hsh hmax
  exact ⟨microCount k s, _, hexec, hidle, hbefore, rfl⟩

end Sys2Proof.Machine
end

section
/-! SUPPORT. The ICD header packed (41_field_extract.md R136): two-byte groups as the concatenation of their bytes, the
six bytes of the header as concatenations of its fields, and unpacking as the inverse of packing. -/

namespace Sys2Proof.Machine

/-! ### Two-byte groups -/

theorem toNat_append_eq {v w : Nat} (x : BitVec v) (y : BitVec w) : (x ++ y).toNat = x.toNat * 2 ^ w + y.toNat := by
  rw [BitVec.toNat_append, ← Nat.shiftLeft_add_eq_or_of_lt y.isLt, Nat.shiftLeft_eq]

/-- A field cut at its bit `lo` is its high part followed by its low part. -/
theorem extractLsb'_append_low {w : Nat} (x : BitVec w) (hi lo : Nat) :
    x.extractLsb' lo hi ++ x.extractLsb' 0 lo = x.extractLsb' 0 (hi + lo) :=
  BitVec.extractLsb'_append_extractLsb'_eq_extractLsb' (Nat.zero_add lo).symm

theorem append_extractLsb'_self {hi lo : Nat} (x : BitVec (hi + lo)) :
    x.extractLsb' lo hi ++ x.extractLsb' 0 lo = x := by
  rw [extractLsb'_append_low, BitVec.extractLsb'_eq_self]

/-- R123 on a group: its two bytes, the most significant first. -/
theorem beBytes_append (hi lo : Byte) : beBytes (hi ++ lo).toNat 2 = [hi, lo] := by
  have hhigh : BitVec.ofNat 8 ((hi ++ lo).toNat / 2 ^ 8) = hi := by
    rw [ofNat_div_two_pow]
    exact BitVec.extractLsb'_append_eq_left
  have hlow : BitVec.ofNat 8 ((hi ++ lo).toNat / 2 ^ 0) = lo := by
    rw [ofNat_div_two_pow]
    exact BitVec.extractLsb'_append_eq_right
  have hbytes : beBytes (hi ++ lo).toNat 2 = [BitVec.ofNat 8 ((hi ++ lo).toNat % 2 ^ 16 / 2 ^ 8),
    BitVec.ofNat 8 ((hi ++ lo).toNat % 2 ^ 16 / 2 ^ 0)] := rfl
  rw [hbytes, Nat.mod_eq_of_lt (hi ++ lo).isLt, hhigh, hlow]

/-- R123 on a 16-bit value. -/
theorem beBytes_half (x : Half) : beBytes x.toNat 2 = [x.extractLsb' 8 8, x.extractLsb' 0 8] := by
  rw [← beBytes_append, append_extractLsb'_self (hi := 8) (lo := 8) x]

theorem ofNat_sixteen_eq_append (n : Nat) : BitVec.ofNat 16 n = BitVec.ofNat 8 (n / 256) ++ BitVec.ofNat 8 n := by
  apply BitVec.eq_of_toNat_eq
  rw [toNat_append_byte, BitVec.toNat_ofNat, BitVec.toNat_ofNat, BitVec.toNat_ofNat]
  omega

/-! ### The six bytes -/

/-- R136 with each field that crosses a byte boundary given as its parts in the two bytes. -/
theorem packIcd_append (v : BitVec 3) (t f : BitVec 1) (apidHi : BitVec 3) (g : BitVec 2) (countHi : BitVec 6)
    (apidLo countLo sizeHi sizeLo : Byte) :
    packIcd ⟨v, t, f, apidHi ++ apidLo, g, countHi ++ countLo, sizeHi ++ sizeLo⟩ =
      [v ++ t ++ f ++ apidHi, apidLo, g ++ countHi, countLo, sizeHi, sizeLo] := by
  have hgroup0 : icdGroup0 ⟨v, t, f, apidHi ++ apidLo, g, countHi ++ countLo, sizeHi ++ sizeLo⟩ =
      ((v ++ t ++ f ++ apidHi : Byte) ++ apidLo).toNat := by
    simp only [icdGroup0, toNat_append_eq]
    ring
  have hgroup1 : icdGroup1 ⟨v, t, f, apidHi ++ apidLo, g, countHi ++ countLo, sizeHi ++ sizeLo⟩ =
      ((g ++ countHi : Byte) ++ countLo).toNat := by
    simp only [icdGroup1, toNat_append_eq]
    ring
  rw [packIcd, hgroup0, hgroup1, beBytes_append, beBytes_append, beBytes_append]
  rfl

/-- R153 read back from bytes laid out as R136 packs them. -/
theorem unpackIcd_append (v : BitVec 3) (t f : BitVec 1) (apidHi : BitVec 3) (g : BitVec 2) (countHi : BitVec 6)
    (apidLo countLo sizeHi sizeLo : Byte) :
    unpackIcd [v ++ t ++ f ++ apidHi, apidLo, g ++ countHi, countLo, sizeHi, sizeLo] =
      ⟨v, t, f, apidHi ++ apidLo, g, countHi ++ countLo, sizeHi ++ sizeLo⟩ := by
  have hversion : (v ++ t ++ f ++ apidHi).extractLsb' 5 3 = v := by
    rw [BitVec.extractLsb'_append_eq_of_le (by decide), BitVec.extractLsb'_append_eq_of_le (by decide)]
    exact BitVec.extractLsb'_append_eq_left
  have htype : (v ++ t ++ f ++ apidHi).extractLsb' 4 1 = t := by
    rw [BitVec.extractLsb'_append_eq_of_le (by decide), BitVec.extractLsb'_append_eq_of_le (by decide)]
    exact BitVec.extractLsb'_append_eq_right
  have hflag : (v ++ t ++ f ++ apidHi).extractLsb' 3 1 = f := by
    rw [BitVec.extractLsb'_append_eq_of_le (by decide)]
    exact BitVec.extractLsb'_append_eq_right
  rw [unpackIcd_bytes, hversion, htype, hflag, BitVec.extractLsb'_append_eq_right, BitVec.extractLsb'_append_eq_right,
    BitVec.extractLsb'_append_eq_left]

/-- R136: unpacking inverts packing. -/
theorem unpackIcd_packIcd (r : IcdRegs) : unpackIcd (packIcd r) = r := by
  obtain ⟨v, t, f, apid, g, count, size⟩ := r
  rw [← append_extractLsb'_self (hi := 3) (lo := 8) apid, ← append_extractLsb'_self (hi := 6) (lo := 8) count,
    ← append_extractLsb'_self (hi := 8) (lo := 8) size, packIcd_append, unpackIcd_append]

@[simp] theorem length_packIcd (r : IcdRegs) : (packIcd r).length = 6 := by
  simp [packIcd]

end Sys2Proof.Machine
end

section
/-! SUPPORT. The header assembler (46_build.md R230 to R237): the paths of OB.NEW, BUILD.SPTP and BUILD.TK, what the
buffers that the two BUILD commands make hold, and what a parse of such a buffer finds. -/

namespace Sys2Proof.Machine

/-- R266 for the destination group OB. -/
theorem raiseErr_outputBuffer_eq (c : Err) (s : State) :
    raiseErr .outputBuffer c s = { s with ob := none, err := c, sticky := true } := rfl

/-! ### OB.NEW -/

theorem exec_obNew_of_lt {s : State} (h : s.cfg.obMax < s.arg0.toNat) :
    exec .obNew s = .next (raiseErr .outputBuffer .outOfRange s) :=
  if_pos h

theorem exec_obNew_of_le {s : State} (h : s.arg0.toNat ≤ s.cfg.obMax) :
    exec .obNew s = .next (succeed { s with ob := some (Memory.zeros s.arg0.toNat) }) :=
  if_neg (Nat.not_lt.mpr h)

/-- Settles O25: one lemma per path of R230; on the last one OB is the buffer of zero bytes. -/
theorem obNewMakesZeroBuffer : Obligations.ObNewMakesZeroBuffer := by
  refine ⟨decodeOpcode_encodeOpcode .obNew, fun s => ⟨exec_obNew_of_lt, fun h => ?made⟩⟩
  case made =>
    exact ⟨_, exec_obNew_of_le h, Memory.zeros_wf _, Memory.zeros_len _, Memory.byte_zeros _⟩

/-! ### Parts of a laid-out list -/

/-- A part of a laid-out list reads back. -/
theorem Memory.read_ofBytes {bytes l part r : List Byte} {a n : Nat} (h : bytes = l ++ (part ++ r))
    (ha : l.length = a) (hn : part.length = n) : (Memory.ofBytes bytes).read a n = part := by
  subst h ha hn
  rw [Memory.read_eq]
  refine List.ext_getElem (by simp) fun i _ hi => ?_
  simp [Memory.byte_ofBytes, List.getElem?_append_right, List.getElem?_append_left hi, hi]

/-- A byte of a range, once the range is known. -/
theorem Memory.byte_of_read {o : Memory} {a n : Nat} {bytes : List Byte} (h : o.read a n = bytes) {i : Nat}
    (hi : i < n) : o.byte (a + i) = bytes.getD i 0 := by
  rw [← h, Memory.getD_read _ _ _ _ _ hi]

theorem Memory.byte_of_read_toBytes {m o : Memory} {a : Nat} (h : o.read a m.len = m.toBytes) {i : Nat}
    (hi : i < m.len) : o.byte (a + i) = m.byte i := by
  rw [Memory.byte_of_read h hi, Memory.toBytes, Memory.getD_read _ _ _ _ _ hi, Nat.zero_add]

@[simp] theorem Memory.length_toBytes (m : Memory) : m.toBytes.length = m.len := Memory.length_read m 0 m.len

/-- HOST.LOAD of a canonical buffer's bytes (R43): IB is that buffer. -/
theorem hostLoad_toBytes_inv {o : Memory} {t u : State} (hw : o.wf = true) (h : hostLoad o.toBytes t = .next u) :
    u.ib = some o ∧ u.cfg = t.cfg := by
  unfold hostLoad at h
  split at h
  · cases h
  · cases h
    rw [Memory.ofBytes_toBytes hw]
    exact ⟨rfl, rfl⟩

/-! ### BUILD.SPTP -/

theorem exec_buildSptp (s : State) : exec .buildSptp s = execBuildSptp s := rfl

/-- R232: the buffer that BUILD.SPTP makes of the payload in `m`; `execBuildSptp_of_le` says that it does. -/
def builtSptp (s : State) (m : Memory) : Memory := Memory.ofBytes (sptpHeader s.cfg s.opTo s.opFrom ++ m.toBytes)

theorem execBuildSptp_of_absent {s : State} (h : s.ib = none) :
    execBuildSptp s = .next (raiseErr .outputBuffer .nullInput s) := by
  unfold execBuildSptp
  rw [h]

theorem execBuildSptp_of_lt {s : State} {m : Memory} (hm : s.ib = some m) (h : s.cfg.obMax < m.len + 4) :
    execBuildSptp s = .next (raiseErr .outputBuffer .outOfRange s) := by
  unfold execBuildSptp
  rw [hm]
  exact if_pos h

theorem execBuildSptp_of_le {s : State} {m : Memory} (hm : s.ib = some m) (h : m.len + 4 ≤ s.cfg.obMax) :
    execBuildSptp s = .next (succeed { s with ob := some (builtSptp s m) }) := by
  unfold execBuildSptp
  rw [hm]
  exact if_neg (Nat.not_lt.mpr h)

section BuiltSptp

variable (s : State) (m : Memory)

theorem builtSptp_wf : (builtSptp s m).wf = true := Memory.ofBytes_wf _

theorem builtSptp_len : (builtSptp s m).len = m.len + 4 := by
  simp [builtSptp, sptpHeader]

theorem builtSptp_header : (builtSptp s m).read 0 4 = sptpHeader s.cfg s.opTo s.opFrom :=
  Memory.read_ofBytes (l := []) rfl rfl rfl

theorem builtSptp_payload : (builtSptp s m).read 4 m.len = m.toBytes :=
  Memory.read_ofBytes (r := []) (by rw [List.append_nil]) rfl (Memory.length_toBytes m)

end BuiltSptp

/-- Settles O23: one lemma per path of R232; on the last one the header and the payload are ranges of the new OB. -/
theorem buildSptpWritesFrame : Obligations.BuildSptpWritesFrame := by
  refine ⟨decodeOpcode_encodeOpcode .buildSptp, fun s => ⟨?absent, ?outOfRange, ?built⟩⟩
  case absent =>
    intro h
    rw [exec_buildSptp, execBuildSptp_of_absent h, raiseErr_outputBuffer_eq]
  case outOfRange =>
    intro m hm h
    rw [exec_buildSptp, execBuildSptp_of_lt hm h, raiseErr_outputBuffer_eq]
  case built =>
    intro m hm h
    have header {i : Nat} (hi : i < 4) := Memory.byte_of_read (builtSptp_header s m) hi
    exact ⟨builtSptp s m, execBuildSptp_of_le hm h, builtSptp_wf s m, builtSptp_len s m,
      header (i := 0) (by decide), header (i := 1) (by decide), header (i := 2) (by decide),
      header (i := 3) (by decide), fun i hi => Memory.byte_of_read_toBytes (builtSptp_payload s m) hi⟩

/-- Settles O57: the loaded buffer is the built one, so PARSE.SPTP finds its header in bytes 0 to 3 and its payload
from byte 4 on. -/
theorem builtSptpFrameParsesBack : Obligations.BuiltSptpFrameParsesBack := by
  intro s t u m o hm hmax hlen hbuild hob hload
  rw [exec_buildSptp, execBuildSptp_of_le hm hmax] at hbuild
  obtain rfl := Host.Outcome.next.inj hbuild
  obtain rfl : builtSptp s m = o := Option.some.inj hob
  obtain ⟨hib, -⟩ := hostLoad_toBytes_inv (builtSptp_wf s m) hload
  have hfits : 4 ≤ (builtSptp s m).len := by rw [builtSptp_len]; omega
  rw [exec_parseSptp, execParseSptp_of_le hib hfits, builtSptp_header, builtSptp_len]
  refine ⟨_, _, rfl, rfl, rfl, rfl, rfl, ?payload⟩
  case payload =>
    have hview : (BitVec.ofNat 32 m.len).toNat = m.len := Nat.mod_eq_of_lt (by omega)
    exact (congrArg _ hview).trans (builtSptp_payload s m)

/-! ### BUILD.TK -/

theorem exec_buildTk (s : State) : exec .buildTk s = execBuildTk s := rfl

/-- R234: the buffer that BUILD.TK makes of the payload in `m`; `execBuildTk_of_le` says that it does. -/
def builtTk (s : State) (m : Memory) : Memory := Memory.ofBytes (tkBytes s.cfg s.opTo s.opFrom s.opApid m.toBytes)

theorem execBuildTk_of_absent {s : State} (h : s.ib = none) :
    execBuildTk s = .next (raiseErr .outputBuffer .nullInput s) := by
  unfold execBuildTk
  rw [h]

/-- R238: Size cannot hold the length. -/
theorem execBuildTk_of_long {s : State} {m : Memory} (hm : s.ib = some m) (h : 65535 < m.len) :
    execBuildTk s = .next (raiseErr .outputBuffer .outOfRange s) := by
  unfold execBuildTk
  rw [hm]
  exact if_pos h

theorem execBuildTk_of_lt {s : State} {m : Memory} (hm : s.ib = some m) (hsize : m.len ≤ 65535)
    (h : s.cfg.obMax < m.len + 12) : execBuildTk s = .next (raiseErr .outputBuffer .outOfRange s) := by
  unfold execBuildTk
  rw [hm]
  exact (if_neg (Nat.not_lt.mpr hsize)).trans (if_pos h)

theorem execBuildTk_of_le {s : State} {m : Memory} (hm : s.ib = some m) (hsize : m.len ≤ 65535)
    (h : m.len + 12 ≤ s.cfg.obMax) :
    execBuildTk s = .next (succeed { s with
      ob := some (builtTk s m),
      hid := { s.hid with crcWork := crcFold s.cfg s.cfg.crcInit (tkBody s.cfg s.opApid m.toBytes) } }) := by
  unfold execBuildTk
  rw [hm]
  exact (if_neg (Nat.not_lt.mpr hsize)).trans (if_neg (Nat.not_lt.mpr h))

/-- R235: the six bytes of the ICD header of a built TK frame. -/
theorem packIcd_tkIcd (s : State) (n : Nat) :
    packIcd (tkIcd s.cfg s.opApid n) =
      [0#3 ++ s.cfg.tkType ++ s.cfg.flagHeaderFill ++ s.arg2.extractLsb' 8 3, s.arg2.extractLsb' 0 8, 0xC0, 0x00,
        BitVec.ofNat 8 (n / 256), BitVec.ofNat 8 n] := by
  have hcounter : (0 : BitVec 14) = 0#6 ++ 0#8 := by decide
  rw [tkIcd, State.opApid, ← extractLsb'_append_low s.arg2 3 8, hcounter, ofNat_sixteen_eq_append, packIcd_append]
  rfl

section BuiltTk

variable (s : State) (m : Memory)

theorem builtTk_wf : (builtTk s m).wf = true := Memory.ofBytes_wf _

theorem tkBody_toBytes : tkBody s.cfg s.opApid m.toBytes = packIcd (tkIcd s.cfg s.opApid m.len) ++ m.toBytes := by
  rw [tkBody, Memory.length_toBytes]

theorem length_tkBody : (tkBody s.cfg s.opApid m.toBytes).length = m.len + 6 := by
  rw [tkBody_toBytes, List.length_append, length_packIcd, Memory.length_toBytes, Nat.add_comm]

theorem builtTk_len : (builtTk s m).len = m.len + 12 := by
  rw [builtTk, Memory.ofBytes_len, tkBytes, List.length_append, List.length_append, length_tkBody, length_beBytes,
    Nat.add_comm _ (m.len + 6)]
  rfl

theorem builtTk_sptp : (builtTk s m).read 0 4 = [s.opTo, s.cfg.pidIcd, 0x00, s.opFrom] :=
  Memory.read_ofBytes (l := []) (List.append_assoc _ _ _) rfl rfl

/-- R234: the bytes that the CRC covers. -/
theorem builtTk_body : (builtTk s m).read 4 (m.len + 6) = tkBody s.cfg s.opApid m.toBytes :=
  Memory.read_ofBytes (List.append_assoc _ _ _) rfl (length_tkBody s m)

theorem builtTk_body_parts :
    (builtTk s m).read 4 6 ++ (builtTk s m).read 10 m.len = packIcd (tkIcd s.cfg s.opApid m.len) ++ m.toBytes := by
  rw [← tkBody_toBytes, ← builtTk_body, Nat.add_comm m.len, Memory.read_add]

theorem builtTk_icd : (builtTk s m).read 4 6 = packIcd (tkIcd s.cfg s.opApid m.len) :=
  List.append_inj_left (builtTk_body_parts s m) (by rw [Memory.length_read, length_packIcd])

theorem builtTk_payload : (builtTk s m).read 10 m.len = m.toBytes :=
  List.append_inj_right (builtTk_body_parts s m) (by rw [Memory.length_read, length_packIcd])

theorem builtTk_trailer :
    (builtTk s m).byte (m.len + 10) ++ (builtTk s m).byte (m.len + 11) =
      crc16 s.cfg ((builtTk s m).read 4 (m.len + 6)) := by
  have hread : (builtTk s m).read (m.len + 10) 2 =
      beBytes (crc16 s.cfg ((builtTk s m).read 4 (m.len + 6))).toNat 2 := by
    rw [builtTk_body]
    refine Memory.read_ofBytes (r := []) (by rw [List.append_nil]; rfl) ?_ (length_beBytes _ 2)
    rw [List.length_append, length_tkBody, Nat.add_comm]
    rfl
  rw [beBytes_half] at hread
  have hhigh := Memory.byte_of_read hread (i := 0) (by decide)
  have hlow := Memory.byte_of_read hread (i := 1) (by decide)
  rw [Nat.add_zero] at hhigh
  rw [hhigh, hlow]
  exact append_extractLsb'_self (hi := 8) (lo := 8) _

end BuiltTk

/-- Settles O24: one lemma per path of R234; on the last one each clause is about a range of the new OB. -/
theorem buildTkWritesFrame : Obligations.BuildTkWritesFrame := by
  refine ⟨decodeOpcode_encodeOpcode .buildTk, fun s => ⟨?absent, ?long, ?outOfRange, ?built⟩⟩
  case absent =>
    intro h
    rw [exec_buildTk, execBuildTk_of_absent h, raiseErr_outputBuffer_eq]
  case long =>
    intro m hm h
    rw [exec_buildTk, execBuildTk_of_long hm h, raiseErr_outputBuffer_eq]
  case outOfRange =>
    intro m hm hsize h
    rw [exec_buildTk, execBuildTk_of_lt hm hsize h, raiseErr_outputBuffer_eq]
  case built =>
    intro m hm hsize h
    have sptp {i : Nat} (hi : i < 4) := Memory.byte_of_read (builtTk_sptp s m) hi
    have icd {i : Nat} (hi : i < 6) := Memory.byte_of_read ((builtTk_icd s m).trans (packIcd_tkIcd s m.len)) hi
    refine ⟨builtTk s m, _, execBuildTk_of_le hm hsize h, builtTk_wf s m, builtTk_len s m,
      sptp (i := 0) (by decide), sptp (i := 1) (by decide), sptp (i := 2) (by decide), sptp (i := 3) (by decide),
      icd (i := 0) (by decide), icd (i := 1) (by decide), icd (i := 2) (by decide), icd (i := 3) (by decide),
      icd (i := 4) (by decide), icd (i := 5) (by decide),
      fun i hi => Memory.byte_of_read_toBytes (builtTk_payload s m) hi, ?trailer⟩
    case trailer =>
      rw [← Memory.read_eq]
      exact builtTk_trailer s m

/-! ### A built TK frame parsed -/

section BuiltTkParsed

variable (s : State) (m : Memory)

theorem builtTk_sptpAt :
    (builtTk s m).sptpAt = ⟨s.arg0.extractLsb' 0 8, s.cfg.pidIcd, 0, s.arg1.extractLsb' 0 8⟩ := by
  rw [← sptpRegs_read, builtTk_sptp]
  rfl

theorem builtTk_icdAt : (builtTk s m).icdAt = tkIcd s.cfg s.opApid m.len := by
  rw [← unpackIcd_read, builtTk_icd, unpackIcd_packIcd]

/-- R236: a built frame has no sub-header, so what PARSE.TK takes as covered is the whole body. -/
theorem builtTk_covered : (builtTk s m).covered = (builtTk s m).read 4 (m.len + 6) := by
  rw [← read_covered, builtTk_len]
  rfl

/-- R237: a TK frame parsed from the built buffer holds the CRC that it needs. -/
theorem builtTk_crc (k : FrameKind) : ((builtTk s m).tmtkAt s.cfg k).tmtk.crc = crc16 s.cfg (builtTk s m).covered := by
  rw [builtTk_covered, ← builtTk_trailer, Memory.tmtkAt, builtTk_len]
  rfl

end BuiltTkParsed

/-- Settles O58: the loaded buffer is the built one, so both parses find the headers that the build wrote, and PARSE.TK
finds its body and its trailer. -/
theorem builtTkFrameParsesBack : Obligations.BuiltTkFrameParsesBack := by
  intro s t u m o hm hsize hmax hbuild hob hload
  rw [exec_buildTk, execBuildTk_of_le hm hsize hmax] at hbuild
  obtain rfl := Host.Outcome.next.inj hbuild
  obtain rfl : builtTk s m = o := Option.some.inj hob
  obtain ⟨hib, hcfg : u.cfg = s.cfg⟩ := hostLoad_toBytes_inv (builtTk_wf s m) hload
  have hlen := builtTk_len s m
  refine ⟨fun hpayload => ?tk, ?icd⟩
  case tk =>
    obtain ⟨-, -, hparsed⟩ := parseTmTk_commitsFrame .tk u
    obtain ⟨h, hexec⟩ := hparsed _ hib (by omega)
    rw [hcfg] at hexec
    refine ⟨_, _, hexec, rfl, rfl, builtTk_sptpAt s m, builtTk_icdAt s m, ?crc, (builtTk_crc s m .tk).symm, rfl,
      ?view, builtTk_payload s m⟩
    case crc =>
      show _ = crc16 s.cfg (packIcd (builtTk s m).icdAt ++ m.toBytes)
      rw [builtTk_crc, builtTk_covered, builtTk_body, tkBody_toBytes, builtTk_icdAt]
    case view =>
      show (BitVec.ofNat 32 ((builtTk s m).len - 10)).toNat = m.len + 2
      rw [BitVec.toNat_ofNat]
      omega
  case icd =>
    rw [exec_parseIcd, execParseIcd_of_le hib (by omega), icdFrame_read]
    exact ⟨_, _, rfl, rfl, rfl, builtTk_sptpAt s m, builtTk_icdAt s m⟩

end Sys2Proof.Machine
end

section
/-! SUPPORT. The system commands (47_system.md R250, R251), and how every other command ends (10_state.md R25, R26):
with ERR 0 and STICKY as it was, or with its error raised. -/

namespace Sys2Proof.Machine

/-! ### NOP and CLR -/

theorem exec_nop (s : State) : exec .nop s = .next { s with err := .ok } := rfl

theorem exec_clr (s : State) :
    exec .clr s = .next { s with
      arg0 := 0, arg1 := 0, arg2 := 0, arg3 := 0, res := 0, crcAcc := s.cfg.crcInit, frame := none, ob := none,
      err := .ok, sticky := false } := rfl

/-- R251: after `load absent`, CLR gives the state after reset. BUSY and the hidden registers are what reset writes and
CLR does not. -/
theorem exec_clr_hostLoadAbsent (s : State) :
    exec .clr (hostLoadAbsent s) = .next { hostReset s with busy := s.busy, hid := s.hid } := rfl

/-- Settles O1: R250's opcode and its assignment. -/
theorem nopWritesErrOnly : Obligations.NopWritesErrOnly :=
  ⟨decodeOpcode_encodeOpcode .nop, exec_nop⟩

/-! ### The two ends of a command -/

/-- How a command other than CLR ends: it succeeds (R25) and writes some of the registers below, which STICKY is not
among, or it raises an error (R266) that clears the group `d`. -/
inductive Ends (d : DestGroup) (s : State) : Host.Outcome State Fault Refusal → Prop
  | success (r : Word) (acc : Half) (f : Option Frame) (b : Bool) (o : Option Memory) (h : Hidden) :
      Ends d s (.next (succeed { s with res := r, crcAcc := acc, frame := f, busy := b, ob := o, hid := h }))
  | failure {c : Err} (hc : c ≠ .ok) (b : Bool) (h : Hidden) :
      Ends d s (.next (raiseErr d c { s with busy := b, hid := h }))

/-- R25, R26: what a command that ends so leaves in ERR and STICKY. -/
theorem Ends.err_sticky {d : DestGroup} {s t : State} (h : Ends d s (.next t)) :
    (t.err = .ok ∧ t.sticky = s.sticky) ∨ (t.err ≠ .ok ∧ t.sticky = true) := by
  cases h with
  | success r acc f b o h => exact .inl ⟨rfl, rfl⟩
  | failure hc b h => exact .inr ⟨by rwa [raiseErr_err], raiseErr_sticky _ _ _⟩

/-- A check of a command (R268) that leads to one of the two ends either way. -/
theorem Ends.ite {d : DestGroup} {s : State} {a b : Host.Outcome State Fault Refusal} {p : Prop} [Decidable p]
    (ha : Ends d s a) (hb : Ends d s b) : Ends d s (if p then a else b) := by
  split
  · exact ha
  · exact hb

section SharedEnds

variable {s : State}

theorem ends_raiseErr {d : DestGroup} {c : Err} (hc : c ≠ .ok) : Ends d s (.next (raiseErr d c s)) := .failure hc ..

theorem ends_failParse {k : FrameKind} {e : Err} (he : e ≠ .ok) : Ends .frameRegs s (.next (failParse k e s)) :=
  .failure he ..

theorem ends_commitFrame {f : Frame} {h : Hidden} : Ends .frameRegs s (.next (commitFrame f h s)) := .success ..

theorem extractWith_ends {off n : Nat} {value : List Byte → Nat} : Ends .result s (extractWith off n value s) := by
  unfold extractWith
  split
  · exact ends_raiseErr nofun
  · exact .ite (ends_raiseErr nofun) (.success ..)

theorem packWith_ends {off n : Nat} {bytes : List Byte → List Byte} : Ends .nothing s (packWith off n bytes s) := by
  unfold packWith
  split
  · exact ends_raiseErr nofun
  · exact .ite (ends_raiseErr nofun) (.success ..)

theorem parseTmTk_ends {k : FrameKind} : Ends .frameRegs s (parseTmTk k s) := by
  unfold parseTmTk
  split
  · exact ends_failParse nofun
  · exact .ite (ends_failParse nofun) ends_commitFrame

end SharedEnds

/-! ### Each command -/

section EachCommand

variable (s : State)

theorem exec_crcRange_ends : Ends .result s (exec .crcRange s) := by
  rw [exec_crcRange, execCrcRange]
  split
  · exact ends_raiseErr nofun
  · exact .ite (ends_raiseErr nofun) (.success ..)

theorem exec_fxBe_ends : Ends .result s (exec .fxBe s) := .ite extractWith_ends (ends_raiseErr nofun)

theorem exec_fxBits_ends : Ends .result s (exec .fxBits s) := .ite extractWith_ends (ends_raiseErr nofun)

theorem exec_pkBe_ends : Ends .nothing s (exec .pkBe s) := .ite packWith_ends (ends_raiseErr nofun)

theorem exec_pkBits_ends : Ends .nothing s (exec .pkBits s) := .ite packWith_ends (ends_raiseErr nofun)

theorem exec_parseSptp_ends : Ends .frameRegs s (exec .parseSptp s) := by
  rw [exec_parseSptp, execParseSptp]
  split
  · exact ends_failParse nofun
  · exact .ite (ends_failParse nofun) ends_commitFrame

theorem exec_parseIcd_ends : Ends .frameRegs s (exec .parseIcd s) := by
  rw [exec_parseIcd, execParseIcd]
  split
  · exact ends_failParse nofun
  · exact .ite (ends_failParse nofun) (.ite (ends_failParse nofun) ends_commitFrame)

theorem exec_parseObt_ends : Ends .frameRegs s (exec .parseObt s) := by
  rw [exec_parseObt, execParseObt]
  split
  · exact ends_failParse nofun
  · exact .ite ends_commitFrame (ends_failParse nofun)

theorem exec_parseHsi_ends : Ends .frameRegs s (exec .parseHsi s) := by
  rw [exec_parseHsi, execParseHsi]
  split
  · exact ends_failParse nofun
  · exact .ite (ends_failParse nofun) ends_commitFrame

/-- R194: either binding of TC_SHORT_ERR is an error. -/
theorem shortErr_ne_ok (e : TcShortErr) : shortErr e ≠ .ok := by
  cases e <;> decide

theorem exec_parseTc_ends : Ends .frameRegs s (exec .parseTc s) := by
  rw [exec_parseTc, execParseTc]
  split
  · exact ends_failParse nofun
  · exact .ite (ends_failParse (shortErr_ne_ok _)) (.ite ends_commitFrame (ends_failParse nofun))

theorem exec_buildSptp_ends : Ends .outputBuffer s (exec .buildSptp s) := by
  rw [exec_buildSptp, execBuildSptp]
  split
  · exact ends_raiseErr nofun
  · exact .ite (ends_raiseErr nofun) (.success ..)

theorem exec_buildTk_ends : Ends .outputBuffer s (exec .buildTk s) := by
  rw [exec_buildTk, execBuildTk]
  split
  · exact ends_raiseErr nofun
  · exact .ite (ends_raiseErr nofun) (.ite (ends_raiseErr nofun) (.success ..))

theorem exec_obNew_ends : Ends .outputBuffer s (exec .obNew s) := .ite (ends_raiseErr nofun) (.success ..)

/-- R25, R26, R266: how each command but CLR ends, from every state. -/
theorem exec_ends {i : Instr} (hi : i ≠ .clr) : Ends (destinationOf i) s (exec i s) := by
  cases i with
  | clr => exact absurd rfl hi
  | nop => exact .success ..
  | crcClr => exact .success ..
  | crcUpd => exact .success ..
  | crcRd => exact .success ..
  | crcRange => exact exec_crcRange_ends s
  | fxBe => exact exec_fxBe_ends s
  | fxRev32 =>
    rw [exec_fxRev32]
    exact extractWith_ends
  | fxBits => exact exec_fxBits_ends s
  | pkBe => exact exec_pkBe_ends s
  | pkRev32 =>
    rw [exec_pkRev32]
    exact packWith_ends
  | pkBits => exact exec_pkBits_ends s
  | parseSptp => exact exec_parseSptp_ends s
  | parseIcd => exact exec_parseIcd_ends s
  | parseTm =>
    rw [exec_parseTm]
    exact parseTmTk_ends
  | parseTk =>
    rw [exec_parseTk]
    exact parseTmTk_ends
  | parseObt => exact exec_parseObt_ends s
  | parseHsi => exact exec_parseHsi_ends s
  | parseTc => exact exec_parseTc_ends s
  | buildSptp => exact exec_buildSptp_ends s
  | buildTk => exact exec_buildTk_ends s
  | obNew => exact exec_obNew_ends s

end EachCommand

/-! ### R251 -/

/-- R26: STICKY, once set, is cleared by no command but CLR. -/
theorem exec_keeps_sticky {i : Instr} {s t : State} (hi : i ≠ .clr) (h : exec i s = .next t) (hs : s.sticky = true) :
    t.sticky = true := by
  have hends : Ends (destinationOf i) s (.next t) := h ▸ exec_ends s hi
  obtain ⟨-, hkept⟩ | ⟨-, hset⟩ := hends.err_sticky
  · exact hkept.trans hs
  · exact hset

/-- Settles O2: R251's opcode and its assignments, R26 for the other commands, and BUSY the one visible register that
reset writes and CLR does not. -/
theorem clrRestoresResetValues : Obligations.ClrRestoresResetValues := by
  refine ⟨decodeOpcode_encodeOpcode .clr, exec_clr, fun _ _ _ => exec_keeps_sticky, fun s hbusy => ?reset⟩
  case reset =>
    rw [exec_clr_hostLoadAbsent, hbusy]
    rfl

end Sys2Proof.Machine
end

section
/-! SUPPORT. Errors (60_exceptions.md R266, R269): the codes each command can end with, and what a command that raises
one writes. -/

namespace Sys2Proof.Machine

/-! ### The codes of a command's row -/

/-- The outcome, when it is a next state, holds one of `codes` in ERR. -/
def ErrAmong (codes : List Err) (o : Host.Outcome State Fault Refusal) : Prop := ∀ t, o = .next t → t.err ∈ codes

theorem errAmong_next {codes : List Err} {t : State} : ErrAmong codes (.next t) ↔ t.err ∈ codes :=
  ⟨fun h => h t rfl, fun h _ ht => by cases ht; exact h⟩

/-- A check of a command (R268) either side of which ends with one of the codes. -/
theorem ErrAmong.ite {codes : List Err} {a b : Host.Outcome State Fault Refusal} {p : Prop} [Decidable p]
    (ha : ErrAmong codes a) (hb : ErrAmong codes b) : ErrAmong codes (if p then a else b) := by
  split
  · exact ha
  · exact hb

section SharedErrors

variable {codes : List Err} {s : State}

theorem errAmong_succeed (hok : .ok ∈ codes := by simp [possibleErrors]) : ErrAmong codes (.next (succeed s)) :=
  errAmong_next.2 hok

theorem errAmong_raiseErr {d : DestGroup} {c : Err} (hc : c ∈ codes := by simp [possibleErrors]) :
    ErrAmong codes (.next (raiseErr d c s)) :=
  errAmong_next.2 (by rwa [raiseErr_err])

theorem errAmong_commitFrame {f : Frame} {h : Hidden} (hok : .ok ∈ codes := by simp [possibleErrors]) :
    ErrAmong codes (.next (commitFrame f h s)) :=
  errAmong_next.2 hok

theorem errAmong_failParse {k : FrameKind} {e : Err} (he : e ∈ codes := by simp [possibleErrors]) :
    ErrAmong codes (.next (failParse k e s)) :=
  errAmong_next.2 he

theorem errAmong_extractWith {off n : Nat} {value : List Byte → Nat} (hok : .ok ∈ codes := by simp [possibleErrors])
    (hnull : .nullInput ∈ codes := by simp [possibleErrors])
    (hrange : .outOfRange ∈ codes := by simp [possibleErrors]) : ErrAmong codes (extractWith off n value s) := by
  intro t h
  obtain ⟨-, rfl⟩ | ⟨-, -, -, rfl⟩ | ⟨-, -, -, rfl⟩ := extractWith_cases h
  · rwa [raiseErr_err]
  · rwa [raiseErr_err]
  · rwa [succeed_err]

theorem errAmong_packWith {off n : Nat} {bytes : List Byte → List Byte}
    (hok : .ok ∈ codes := by simp [possibleErrors])
    (hrange : .outOfRange ∈ codes := by simp [possibleErrors]) : ErrAmong codes (packWith off n bytes s) := by
  intro t h
  obtain ⟨-, rfl⟩ | ⟨-, -, -, rfl⟩ | ⟨-, -, -, rfl⟩ := packWith_cases h
  · rwa [raiseErr_err]
  · rwa [raiseErr_err]
  · rwa [succeed_err]

theorem errAmong_parseTmTk {k : FrameKind} (hok : .ok ∈ codes := by simp [possibleErrors])
    (hnull : .nullInput ∈ codes := by simp [possibleErrors])
    (hshort : .frameTooShort ∈ codes := by simp [possibleErrors]) : ErrAmong codes (parseTmTk k s) := by
  intro t h
  obtain ⟨-, rfl⟩ | ⟨-, -, -, rfl⟩ | ⟨-, -, -, rfl⟩ := parseTmTk_cases h
  · rwa [failParse_err]
  · rwa [failParse_err]
  · rwa [commitFrame_err]

end SharedErrors

/-- R269: each command, from every state, ends with a code of its row. The checks of a command are split in the order
the command makes them (R268). -/
theorem exec_errAmong (i : Instr) (s : State) : ErrAmong (possibleErrors s.cfg i) (exec i s) := by
  cases i with
  | nop => exact errAmong_succeed
  | clr => exact errAmong_succeed
  | crcClr => exact errAmong_succeed
  | crcUpd => exact errAmong_succeed
  | crcRd => exact errAmong_succeed
  | crcRange =>
    rw [exec_crcRange, execCrcRange]
    split
    · exact errAmong_raiseErr
    · exact .ite errAmong_raiseErr errAmong_succeed
  | fxBe => exact .ite errAmong_extractWith errAmong_raiseErr
  | fxRev32 =>
    rw [exec_fxRev32]
    exact errAmong_extractWith
  | fxBits => exact .ite errAmong_extractWith errAmong_raiseErr
  | pkBe => exact .ite errAmong_packWith errAmong_raiseErr
  | pkRev32 =>
    rw [exec_pkRev32]
    exact errAmong_packWith
  | pkBits => exact .ite errAmong_packWith errAmong_raiseErr
  | parseSptp =>
    rw [exec_parseSptp, execParseSptp]
    split
    · exact errAmong_failParse
    · exact .ite errAmong_failParse errAmong_commitFrame
  | parseIcd =>
    rw [exec_parseIcd, execParseIcd]
    split
    · exact errAmong_failParse
    · exact .ite errAmong_failParse (.ite errAmong_failParse errAmong_commitFrame)
  | parseTm =>
    rw [exec_parseTm]
    exact errAmong_parseTmTk
  | parseTk =>
    rw [exec_parseTk]
    exact errAmong_parseTmTk
  | parseObt =>
    rw [exec_parseObt, execParseObt]
    split
    · exact errAmong_failParse
    · exact .ite errAmong_commitFrame errAmong_failParse
  | parseHsi =>
    rw [exec_parseHsi, execParseHsi]
    split
    · exact errAmong_failParse
    · exact .ite errAmong_failParse errAmong_commitFrame
  | parseTc =>
    rw [exec_parseTc, execParseTc]
    split
    · exact errAmong_failParse
    · exact .ite errAmong_failParse (.ite errAmong_commitFrame errAmong_failParse)
  | buildSptp =>
    rw [exec_buildSptp, execBuildSptp]
    split
    · exact errAmong_raiseErr
    · exact .ite errAmong_raiseErr errAmong_succeed
  | buildTk =>
    rw [exec_buildTk, execBuildTk]
    split
    · exact errAmong_raiseErr
    · exact .ite errAmong_raiseErr (.ite errAmong_raiseErr errAmong_succeed)
  | obNew => exact .ite errAmong_raiseErr errAmong_succeed

/-- Settles O47: R269's table by the checks of each command, R87 for the reserved opcodes. -/
theorem commandsEndWithListedCodes : Obligations.CommandsEndWithListedCodes := by
  refine ⟨exec_errAmong, fun s t h => ?reserved⟩
  case reserved =>
    rw [execReserved_eq] at h
    cases h
    rfl

/-! ### What an error writes -/

/-- R266: taking an error writes ERR, STICKY and the one destination group it is given. -/
theorem raiseErr_eq (d : DestGroup) (c : Err) (s : State) :
    raiseErr d c s = { s with
      err := c, sticky := true,
      res := if d = .result then 0 else s.res,
      frame := if d = .frameRegs then none else s.frame,
      ob := if d = .outputBuffer then none else s.ob } := by
  cases d <;> rfl

/-- R266: a command that left a code other than 0 raised that code, after it wrote at most BUSY and the hidden
registers. -/
theorem Ends.eq_raiseErr {d : DestGroup} {s t : State} (h : Ends d s (.next t)) (ht : t.err ≠ .ok) :
    t = raiseErr d t.err { s with busy := t.busy, hid := t.hid } := by
  cases h with
  | success r acc f b o h => exact absurd rfl ht
  | failure hc b h => rw [raiseErr_err, raiseErr_busy, raiseErr_hid]

theorem exec_eq_raiseErr {i : Instr} {s t : State} (h : exec i s = .next t) (ht : t.err ≠ .ok) :
    t = raiseErr (destinationOf i) t.err { s with busy := t.busy, hid := t.hid } := by
  have hclr : i ≠ .clr := by
    rintro rfl
    rw [exec_clr] at h
    cases h
    exact ht rfl
  have hends : Ends (destinationOf i) s (.next t) := h ▸ exec_ends s hclr
  exact hends.eq_raiseErr ht

/-- R269: the rows that list no code but 0. -/
theorem possibleErrors_eq_ok (c : Config) {i : Instr} (hi : i ∈ [.nop, .clr, .crcClr, .crcUpd, .crcRd]) :
    possibleErrors c i = [.ok] := by
  simp only [List.mem_cons, List.not_mem_nil, or_false] at hi
  obtain rfl | rfl | rfl | rfl | rfl := hi <;> rfl

/-- Settles O48: a failing command raised its code for its own group, the commands that never fail have 0 alone in
their row of R269, and R87 is the raise that clears no group. -/
theorem failureClearsDestinationGroup : Obligations.FailureClearsDestinationGroup := by
  refine ⟨fun i s t h ht => ?failing, fun i s t hi h => ?neverFails, execReserved_eq⟩
  case failing =>
    have hraised := exec_eq_raiseErr h ht
    rwa [raiseErr_eq] at hraised
  case neverFails =>
    have hmem := exec_errAmong i s t h
    rw [possibleErrors_eq_ok s.cfg hi] at hmem
    exact List.mem_singleton.1 hmem

end Sys2Proof.Machine
end

section
/-! SUPPORT. Decoding against encoding (30_encoding.md R80, R81, R91), and the step that writes a decodable opcode to
CMD (10_state.md R22). -/

namespace Sys2Proof

/-! ### Decode and encode -/

/-- R81: every row of the table holds the opcode of its command. -/
theorem encodeOpcode_of_mem_opcodeTable : ∀ r ∈ opcodeTable, encodeOpcode r.instr = r.value := by decide

/-- R91: the row that a look-up finds is a row that the opcode matches. -/
theorem exists_row_of_decodeOpcode {c : Byte} {i : Instr} (h : decodeOpcode c = .ok i) :
    ∃ r ∈ opcodeTable, r.hits c = true ∧ r.instr = i := by
  unfold decodeOpcode at h
  cases hfind : opcodeTable.find? (fun r => r.hits c) with
  | none =>
    rw [hfind] at h
    cases h
  | some r =>
    rw [hfind] at h
    have hhit : r.hits c = true := List.find?_some (p := fun r : OpcodeRow => r.hits c) hfind
    exact ⟨r, List.mem_of_find?_eq_some hfind, hhit, Except.ok.inj h⟩

/-- R81: an opcode is decoded as a command exactly when it is that command's. -/
theorem decodeOpcode_eq_ok_iff {c : Byte} {i : Instr} : decodeOpcode c = .ok i ↔ c = encodeOpcode i := by
  constructor
  · intro h
    obtain ⟨r, hr, hhit, rfl⟩ := exists_row_of_decodeOpcode h
    rw [encodeOpcode_of_mem_opcodeTable r hr]
    exact (hits_iff_of_mem_opcodeTable hr c).mp hhit
  · rintro rfl
    exact decodeOpcode_encodeOpcode i

theorem decode_cons_of_ok {c : Byte} {i : Instr} (h : decodeOpcode c = .ok i) (rest : List Byte) :
    decode (c :: rest) = .ok (i, rest) := by
  simp only [decode, h]

/-- R80: the decoder takes one byte, and leaves the others. -/
theorem decode_cons_eq_ok_iff {c : Byte} {bytes rest : List Byte} {i : Instr} :
    decode (c :: bytes) = .ok (i, rest) ↔ decodeOpcode c = .ok i ∧ bytes = rest := by
  cases hc : decodeOpcode c with
  | error e => simp [decode_cons_of_error hc]
  | ok j => simp [decode_cons_of_ok hc]

/-- Settles O27: an opcode and its command determine each other, and the bytes after the first are handed on. -/
theorem decodeInvertsEncode : Obligations.DecodeInvertsEncode := by
  intro bytes rest i
  cases bytes with
  | nil => exact ⟨nofun, nofun⟩
  | cons c bytes => rw [decode_cons_eq_ok_iff, decodeOpcode_eq_ok_iff, encode, List.singleton_append, List.cons_eq_cons]

/-- Settles O26: each word is the opcode of its command, and 0x3F is in no row. -/
theorem tableWordsDecode : Obligations.TableWordsDecode := by
  have word (i : Instr) : decode [encodeOpcode i] = .ok (i, []) := decode_cons_of_ok (decodeOpcode_encodeOpcode i) []
  have hreserved : decodeOpcode 0x3F = .error (.reserved 0x3F) :=
    (decodeOpcode_eq_reserved_iff_ranges 0x3F).mpr (by decide)
  exact ⟨word .nop, word .crcRange, word .fxBits, word .pkRev32, word .parseObt, word .obNew,
    decode_cons_of_error hreserved [], rfl⟩

end Sys2Proof

namespace Sys2Proof.Machine

/-! ### The step that issues a command -/

/-- R22: the write of an opcode to CMD is the command it decodes to. -/
theorem step_wr_cmd_of_decode {s : State} {v : Word} {rest : List HostAction} {i : Instr} {tail : List Byte}
    (hp : s.pending = .wr Reg.cmd.offset v :: rest) (hd : decode [cmdOpcode v] = .ok (i, tail)) :
    step s = exec i { s with pending := rest } := by
  rw [step_wr_offset hp, writeReg, issue, hd]

/-- Settles O29: a write to CMD issues the decoded command. -/
theorem stepRunsDecodedCommand : Obligations.StepRunsDecodedCommand :=
  fun _ _ _ _ hp hd _ => step_wr_cmd_of_decode hp hd

end Sys2Proof.Machine
end

section
/-! SUPPORT. The host's side (10_state.md R24, R43 to R48): what HOST.LOAD, HOST.RDOB and HOST.RESET do in a step, the
bits of STATUS, and the word that each offset of the register map reads. -/

namespace Sys2Proof.Machine

/-! ### HOST.LOAD -/

theorem hostLoad_of_le {bytes : List Byte} {s : State} (h : bytes.length ≤ s.cfg.ibMax) :
    hostLoad bytes s = .next { s with ib := some (Memory.ofBytes bytes), frame := none } :=
  if_neg (Nat.not_lt.mpr h)

theorem hostLoad_of_lt {bytes : List Byte} {s : State} (h : s.cfg.ibMax < bytes.length) :
    hostLoad bytes s = .refused .loadTooLong :=
  if_pos h

theorem Memory.byte_ofBytes_of_lt {bytes : List Byte} {i : Nat} (h : i < bytes.length) :
    (Memory.ofBytes bytes).byte i = bytes[i] := by
  rw [Memory.byte_ofBytes, List.getD_eq_getElem _ _ h]

/-- Settles O31: the three host actions that present, replace or take away a buffer. -/
theorem hostLoadReplacesBuffer : Obligations.HostLoadReplacesBuffer := by
  refine ⟨fun s bytes rest hp hlen => ?load, fun s rest hp => step_of_pending hp, fun s bytes rest hp hlen => ?tooLong⟩
  case load =>
    exact ⟨Memory.ofBytes bytes, (step_of_pending hp).trans (hostLoad_of_le hlen), Memory.ofBytes_wf bytes,
      Memory.ofBytes_len bytes, fun i hi => Memory.byte_ofBytes_of_lt hi⟩
  case tooLong => exact (step_of_pending hp).trans (hostLoad_of_lt hlen)

/-! ### HOST.RDOB -/

theorem step_rdob {s : State} {i : Nat} {rest : List HostAction} (hp : s.pending = .rdob i :: rest) :
    step s = .next { s with pending := rest, replies := s.replies ++ [.byte (s.readOb i)] } := step_of_pending hp

theorem readOb_of_absent {s : State} (h : s.ob = none) (i : Nat) : s.readOb i = 0 := by
  unfold State.readOb
  rw [h]

theorem readOb_of_lt {s : State} {m : Memory} (hm : s.ob = some m) {i : Nat} (h : i < m.len) :
    s.readOb i = m.byte i := by
  unfold State.readOb
  rw [hm]
  exact if_pos h

theorem readOb_of_le {s : State} {m : Memory} (hm : s.ob = some m) {i : Nat} (h : m.len ≤ i) : s.readOb i = 0 := by
  unfold State.readOb
  rw [hm]
  exact if_neg (Nat.not_lt.mpr h)

/-- Settles O35: R44's three cases of the byte that is read. -/
theorem rdobReadsOutputBuffer : Obligations.RdobReadsOutputBuffer := by
  intro s i rest hp
  rw [step_rdob hp]
  exact ⟨fun m hm h => by rw [readOb_of_lt hm h], fun m hm h => by rw [readOb_of_le hm h],
    fun h => by rw [readOb_of_absent h]⟩

/-! ### The offsets of the map -/

/-- A property of the word at every offset is one of the word of every register, and of 0 where there is none. -/
theorem readOffset_cases (s : State) {p : Nat → Word → Prop} (hreg : ∀ r : Reg, p r.offset (s.readReg r))
    (hgap : ∀ offset, offset ∉ registerMap.map Prod.fst → p offset 0) (offset : Nat) :
    p offset (s.readOffset offset) := by
  by_cases h : offset ∈ registerMap.map Prod.fst
  · obtain ⟨row, hrow, rfl⟩ := List.mem_map.mp h
    have hoffset : ∀ q ∈ registerMap, q.2.offset = q.1 := by decide
    rw [← hoffset row hrow, readOffset_offset]
    exact hreg row.2
  · rw [readOffset_unmapped s h]
    exact hgap offset h

/-- R46: the offsets are the multiples of 4 up to 0x024 and from 0x040 to 0x0AC. -/
theorem mapped_offset_range :
    ∀ offset ∈ registerMap.map Prod.fst, offset % 4 = 0 ∧ (offset ≤ 0x024 ∨ 0x040 ≤ offset) ∧ offset ≤ 0x0AC := by
  decide

theorem frameWord_of_held {n : Nat} {s : State} {f : Frame} (h : s.frame = some f) (field : Frame → BitVec n) :
    s.frameWord field = (field f).setWidth 32 := by
  unfold State.frameWord
  rw [h]

theorem frameWord_of_none {n : Nat} {s : State} (h : s.frame = none) (field : Frame → BitVec n) :
    s.frameWord field = 0 := by
  unfold State.frameWord
  rw [h]

theorem ibLen_of_absent {s : State} (h : s.ib = none) : s.ibLen = 0 := by
  unfold State.ibLen
  rw [h]

theorem obLen_eq {s : State} {m : Memory} (hm : s.ob = some m) : s.obLen = m.len := by
  unfold State.obLen
  rw [hm]

theorem obLen_of_absent {s : State} (h : s.ob = none) : s.obLen = 0 := by
  unfold State.obLen
  rw [h]

/-- R33, R41: with no frame held, no register from F_TO on holds anything. -/
theorem readReg_of_frame_none {s : State} (h : s.frame = none) {r : Reg} (hr : 0x040 ≤ r.offset) : s.readReg r = 0 := by
  cases r
  case cmd | status | arg0 | arg1 | arg2 | arg3 | res | crcAcc | len | olen => exact absurd hr (by decide)
  all_goals exact frameWord_of_none h _

/-- R46: the word of a register is read at its offset. -/
theorem readOffset_eq_readReg (s : State) {offset : Nat} (r : Reg) (h : r.offset = offset) :
    s.readOffset offset = s.readReg r :=
  h ▸ readOffset_offset s r

/-- The frame registers of R46 with the words they read while the frame is held. -/
def frameRows (f : Frame) : List (Reg × Word) :=
  [(.fTo, f.sptp.toAddr.setWidth 32), (.fProtocolId, f.sptp.protocolId.setWidth 32),
    (.fMsgType, f.sptp.msgType.setWidth 32), (.fFrom, f.sptp.fromAddr.setWidth 32),
    (.fVersion, f.icd.version.setWidth 32), (.fType, f.icd.type.setWidth 32), (.fFlag, f.icd.flag.setWidth 32),
    (.fApid, f.icd.apid.setWidth 32), (.fSegment, f.icd.segment.setWidth 32), (.fCounter, f.icd.counter.setWidth 32),
    (.fSize, f.icd.size.setWidth 32), (.fSubhdr, f.tmtk.subhdr), (.fCrc, f.tmtk.crc.setWidth 32),
    (.fNeededCrc, f.tmtk.neededCrc.setWidth 32), (.fObtNormal, f.obt.normal.setWidth 32),
    (.fObtExtended, f.obt.extended.setWidth 32), (.fObtValue, f.obt.value), (.fTcValue, f.tcValue.setWidth 32),
    (.fHsiReserved, f.hsi.reserved.setWidth 32), (.fHsiFlag, f.hsi.flag.setWidth 32),
    (.fHsiLine, f.hsi.line.setWidth 32), (.fHsiSize, f.hsi.size.setWidth 32), (.pay0Off, f.pay0.off),
    (.pay0Len, f.pay0.len), (.pay1Off, f.pay1.off), (.pay1Len, f.pay1.len), (.pay2Off, f.pay2.off),
    (.pay2Len, f.pay2.len)]

theorem readReg_of_mem_frameRows {s : State} {f : Frame} (h : s.frame = some f) :
    ∀ p ∈ frameRows f, s.readReg p.1 = p.2 := by
  simp [frameRows, State.readReg, frameWord_of_held h]

/-- Settles O34: the rows of the map by their registers, and the offsets without a row by the ranges of those with
one. -/
theorem registerMapReads : Obligations.RegisterMapReads := by
  refine ⟨fun s => ⟨?operands, ?len, ?noLen, ?olen, ?noOlen, ?gaps⟩, fun s f hf p hp => ?held,
    fun s offset hf hlow => ?notHeld⟩
  case operands =>
    simp only [List.forall_mem_cons]
    exact ⟨readOffset_offset s .arg0, readOffset_offset s .arg1, readOffset_offset s .arg2, readOffset_offset s .arg3,
      readOffset_offset s .res, readOffset_offset s .crcAcc, nofun⟩
  case len =>
    intro m hm
    rw [← ibLen_eq hm]
    exact readOffset_offset s .len
  case noLen =>
    intro hm
    rw [readOffset_eq_readReg s (offset := 0x020) .len rfl, State.readReg, ibLen_of_absent hm]
    rfl
  case olen =>
    intro m hm
    rw [← obLen_eq hm]
    exact readOffset_offset s .olen
  case noOlen =>
    intro hm
    rw [readOffset_eq_readReg s (offset := 0x024) .olen rfl, State.readReg, obLen_of_absent hm]
    rfl
  case gaps =>
    intro offset hout
    refine readOffset_unmapped s fun hmem => ?_
    have hrange := mapped_offset_range offset hmem
    omega
  case held =>
    have hrow : p ∈ (frameRows f).map fun q => (q.1.offset, q.2) := hp
    obtain ⟨q, hq, rfl⟩ := List.mem_map.mp hrow
    exact (readOffset_offset s q.1).trans (readReg_of_mem_frameRows hf q hq)
  case notHeld =>
    exact readOffset_cases s (p := fun o w => 0x040 ≤ o → w = 0) (fun r hr => readReg_of_frame_none hf hr)
      (fun _ _ _ => rfl) offset hlow

/-! ### STATUS -/

theorem getLsbD_statusBit (b : Bool) {place i : Nat} (h : i < 32) :
    (statusBit b place).getLsbD i = (b && decide (i = place)) := by
  have hone : (if b then (1 : Word) else 0).getLsbD (i - place) = (b && decide (i - place = 0)) := by
    cases b with
    | false => simp
    | true => rw [if_pos rfl, BitVec.ofNat_eq_ofNat, BitVec.getLsbD_one]; simp
  rw [statusBit, BitVec.getLsbD_shiftLeft, hone, decide_eq_true h, Bool.true_and, Bool.and_left_comm]
  congr 1
  rw [Bool.eq_iff_iff]
  simp only [Bool.and_eq_true, Bool.not_eq_true', decide_eq_true_iff, decide_eq_false_iff_not]
  omega

/-- R24: bit `i` of STATUS. -/
theorem getLsbD_statusWord (s : State) {i : Nat} (h : i < 32) :
    s.statusWord.getLsbD i =
      (s.err.code.getLsbD i || (s.sticky && decide (i = 3)) || (s.frameValid && decide (i = 4)) ||
        (decide (5 ≤ i) && s.kindCode.getLsbD (i - 5)) || (s.obValid && decide (i = 8)) ||
        (s.ibPresent && decide (i = 9)) || (s.busy && decide (i = 10))) := by
  have hkind : (s.kindCode.setWidth 32 <<< 5).getLsbD i = (decide (5 ≤ i) && s.kindCode.getLsbD (i - 5)) := by
    rw [BitVec.getLsbD_shiftLeft, BitVec.getLsbD_setWidth, decide_eq_true h, decide_eq_true (show i - 5 < 32 by omega),
      Bool.true_and, Bool.true_and, ← decide_not, decide_eq_decide.mpr Nat.not_lt]
  simp only [State.statusWord, BitVec.getLsbD_or, getLsbD_statusBit _ h, hkind, BitVec.getLsbD_setWidth,
    decide_eq_true h, Bool.true_and]

/-- A three-bit code has no bit 3 or above. -/
theorem getLsbD_code_of_le (c : BitVec 3) {i : Nat} (h : 3 ≤ i) : c.getLsbD i = false := BitVec.getLsbD_of_ge c i h

/-- R24: ERR is in bits 2:0. -/
theorem statusWord_err (s : State) : s.statusWord.extractLsb' 0 3 = s.err.code := by
  refine BitVec.eq_of_getLsbD_eq fun i hi => ?_
  rw [BitVec.getLsbD_extractLsb', decide_eq_true hi, Bool.true_and, Nat.zero_add, getLsbD_statusWord s (by omega)]
  simp [show i ≠ 3 by omega, show i ≠ 4 by omega, show ¬5 ≤ i by omega, show i ≠ 8 by omega, show i ≠ 9 by omega,
    show i ≠ 10 by omega]

/-- R24: KIND is in bits 7:5. -/
theorem statusWord_kind (s : State) : s.statusWord.extractLsb' 5 3 = s.kindCode := by
  refine BitVec.eq_of_getLsbD_eq fun i hi => ?_
  rw [BitVec.getLsbD_extractLsb', decide_eq_true hi, Bool.true_and, getLsbD_statusWord s (by omega)]
  simp [getLsbD_code_of_le _ (show 3 ≤ 5 + i by omega), show 5 + i ≠ 3 by omega, show 5 + i ≠ 4 by omega,
    show 5 + i ≠ 8 by omega, show 5 + i ≠ 9 by omega, show 5 + i ≠ 10 by omega]

/-- R24: every bit of STATUS from 11 up reads 0. -/
theorem statusWord_high (s : State) {i : Nat} (h : 11 ≤ i) : s.statusWord.getLsbD i = false := by
  by_cases hi : i < 32
  · rw [getLsbD_statusWord s hi]
    simp [getLsbD_code_of_le _ (show 3 ≤ i by omega), getLsbD_code_of_le _ (show 3 ≤ i - 5 by omega),
      show i ≠ 3 by omega, show i ≠ 4 by omega, show i ≠ 8 by omega, show i ≠ 9 by omega, show i ≠ 10 by omega]
  · exact BitVec.getLsbD_of_ge _ _ (by omega)

/-- Settles O33: STATUS bit by bit, its codes those of R24 and R260. -/
theorem statusWordFields : Obligations.StatusWordFields := by
  rintro s w rfl
  rw [readOffset_eq_readReg s (offset := 0x004) .status rfl, State.readReg]
  have bit {i : Nat} (h : i < 32) := getLsbD_statusWord s h
  refine ⟨(statusWord_err s).trans ?err, ?_, ?_, (statusWord_kind s).trans ?kind, ?_, ?_, ?_,
    fun i => statusWord_high s⟩
  case err => cases s.err <;> rfl
  case kind =>
    unfold State.kindCode
    cases s.frame with
    | none => rfl
    | some f =>
      show f.kind.code = _
      cases hk : f.kind <;> simp [hk, FrameKind.code]
  all_goals
    rw [bit (by decide)]
    simp [State.frameValid, State.obValid, State.ibPresent]

/-! ### HOST.RESET -/

theorem statusWord_zero {s : State} (herr : s.err = .ok) (hsticky : s.sticky = false) (hframe : s.frame = none)
    (hob : s.ob = none) (hib : s.ib = none) (hbusy : s.busy = false) : s.statusWord = 0 := by
  simp only [State.statusWord, State.frameValid, State.kindCode, State.obValid, State.ibPresent, herr, hsticky, hframe,
    hob, hib, hbusy]
  decide

/-- R48: in a state that holds reset values, with whatever parameters, only CRC_ACC may read other than 0. -/
theorem readOffset_resetWith (c : Config) (pending : List HostAction) (replies : List HostReply) (offset : Nat) :
    State.readOffset { State.resetWith c with pending := pending, replies := replies } offset =
      if offset = 0x01C then c.crcInit.setWidth 32 else 0 := by
  refine readOffset_cases _ (p := fun o w => w = if o = 0x01C then c.crcInit.setWidth 32 else 0) (fun r => ?_)
    (fun o ho => ?_) offset
  · cases r
    case status => exact statusWord_zero rfl rfl rfl rfl rfl rfl
    all_goals rfl
  · rw [if_neg]
    rintro rfl
    exact ho (by decide)

/-- Settles O36: HOST.RESET is `State.resetWith` but for the host's own fields, whose registers read as R48 says. -/
theorem hostResetLeavesResetValues : Obligations.HostResetLeavesResetValues := by
  refine ⟨fun s rest hp => ?hostReset, ?reset, fun s hp => ?waits⟩
  case hostReset =>
    exact ⟨_, step_of_pending hp, rfl, rfl, rfl, rfl, rfl, rfl, rfl, rfl, rfl, rfl, rfl, rfl, rfl, rfl, rfl, rfl,
      readOffset_resetWith s.cfg rest s.replies⟩
  case reset => exact ⟨rfl, rfl, rfl, rfl, rfl, readOffset_resetWith Config.default [] []⟩
  case waits =>
    unfold step stepAction
    rw [hp]

end Sys2Proof.Machine
end

section
/-! SUPPORT. The laws of the CRC (40_crc.md R103): continuation over a concatenation, the residue, and the byte-serial
commands against CRC.RANGE. -/

namespace Sys2Proof.Machine

/-! ### What the functions depend on -/

theorem crcUpdate_congr {c d : Config} (hpoly : c.crcPoly = d.crcPoly) (hin : c.crcRefIn = d.crcRefIn) :
    crcUpdate c = crcUpdate d := by
  funext acc b
  rw [crcUpdate, crcUpdate, crcInByte, crcInByte, hpoly, hin]

theorem crc16_congr {c d : Config} (hpoly : c.crcPoly = d.crcPoly) (hinit : c.crcInit = d.crcInit)
    (hin : c.crcRefIn = d.crcRefIn) (hout : c.crcRefOut = d.crcRefOut) (hxor : c.crcXorOut = d.crcXorOut)
    (bytes : List Byte) : crc16 c bytes = crc16 d bytes := by
  rw [crc16, crc16, crcFinal, crcFinal, crcFold, crcFold, crcUpdate_congr hpoly hin, hinit, hout, hxor]

/-! ### The residue -/

/-- As long as the bits that leave the top are 0, the shifts of R101 add no polynomial. -/
theorem crcShifts_of_lt (p : Half) {n : Nat} (hn : n ≤ 16) {x : Half} (h : x.toNat < 2 ^ (16 - n)) :
    crcShifts p n x = x <<< n := by
  induction n generalizing x with
  | zero => rw [crcShifts_zero, BitVec.shiftLeft_zero]
  | succ n ih =>
    have hhalf : 2 ^ (16 - n) = 2 * 2 ^ (16 - (n + 1)) := by
      rw [← Nat.pow_succ', show (16 - (n + 1)).succ = 16 - n by omega]
    have htop : 2 ^ (16 - (n + 1)) ≤ 2 ^ 15 := Nat.pow_le_pow_right (by decide) (by omega)
    have hclear : x.getLsbD 15 = false := Nat.testBit_lt_two_pow (Nat.lt_of_lt_of_le h htop)
    have hshift : (x <<< 1).toNat = 2 * x.toNat := by
      rw [BitVec.toNat_shiftLeft, Nat.shiftLeft_eq]
      omega
    rw [crcShifts_succ, crcShift_clear p x hclear, ih (by omega) (by omega), ← BitVec.shiftLeft_add, Nat.add_comm]

theorem toNat_setWidth_byte (b : Byte) : (b.setWidth 16).toNat = b.toNat := BitVec.toNat_setWidth_of_le (by decide)

theorem setWidth_byte_eq_append (b : Byte) : b.setWidth 16 = 0#8 ++ b := by
  apply BitVec.eq_of_toNat_eq
  rw [toNat_setWidth_byte, toNat_append_byte]
  simp

theorem setWidth_byte_shiftLeft (b : Byte) : b.setWidth 16 <<< 8 = b ++ 0#8 := by
  apply BitVec.eq_of_toNat_eq
  have hb := b.isLt
  rw [BitVec.toNat_shiftLeft, toNat_setWidth_byte, toNat_append_byte, Nat.shiftLeft_eq, BitVec.toNat_ofNat]
  omega

/-- A byte that clears the high byte of the accumulator moves the low byte up, and no polynomial is added. -/
theorem crcUpdate_append_high {c : Config} (hin : c.crcRefIn = false) (hi lo : Byte) :
    crcUpdate c (hi ++ lo) hi = lo ++ 0#8 := by
  have hxor : (hi ++ lo) ^^^ (hi.setWidth 16 <<< 8) = lo.setWidth 16 := by
    rw [setWidth_byte_shiftLeft, setWidth_byte_eq_append, BitVec.xor_append, BitVec.xor_self, BitVec.xor_zero]
  have hsmall : (lo.setWidth 16).toNat < 2 ^ (16 - 8) := by
    rw [toNat_setWidth_byte]
    exact lo.isLt
  rw [crcUpdate, crcInByte, hin, if_neg Bool.false_ne_true, hxor, crcShifts_of_lt _ (by decide) hsmall,
    setWidth_byte_shiftLeft]

/-- The two bytes of an accumulator, fed high byte first, bring it to 0. -/
theorem crcFold_own_bytes {c : Config} (hin : c.crcRefIn = false) (acc : Half) :
    crcFold c acc [acc.extractLsb' 8 8, acc.extractLsb' 0 8] = 0 := by
  have hzero : (0 : Half) = 0#8 ++ 0#8 := by decide
  have hacc : acc = acc.extractLsb' 8 8 ++ acc.extractLsb' 0 8 := (append_extractLsb'_self (hi := 8) (lo := 8) acc).symm
  generalize acc.extractLsb' 8 8 = hi at hacc ⊢
  generalize acc.extractLsb' 0 8 = lo at hacc ⊢
  rw [hacc, crcFold_cons, crcFold_cons, crcFold_nil, crcUpdate_append_high hin, crcUpdate_append_high hin, hzero]

/-- R103 (c): a list followed by its own CRC has CRC 0. -/
theorem crc16_append_crc16 {c : Config} (hin : c.crcRefIn = false) (hout : c.crcRefOut = false) (hxor : c.crcXorOut = 0)
    (bytes : List Byte) :
    crc16 c (bytes ++ [(crc16 c bytes).extractLsb' 8 8, (crc16 c bytes).extractLsb' 0 8]) = 0 := by
  have hfinal (acc : Half) : crcFinal c acc = acc := by
    rw [crcFinal, hout, hxor, if_neg Bool.false_ne_true, BitVec.ofNat_eq_ofNat, BitVec.xor_zero]
  simp only [crc16, hfinal, crcFold_append, crcFold_own_bytes hin]

/-- Settles O8: R103's laws on the functions. -/
theorem crcFunctionLaws : Obligations.CrcFunctionLaws :=
  ⟨crcFold_append, fun _ _ bytes hpoly hinit hin hout hxor => crc16_congr hpoly hinit hin hout hxor bytes,
    fun _ bytes hin hout hxor => crc16_append_crc16 hin hout hxor bytes⟩

/-! ### Runs of the CRC commands -/

/-- R21: the step that writes ARG0. -/
theorem step_wr_arg0 {s : State} {v : Word} {rest : List HostAction} (hp : s.pending = .wr Reg.arg0.offset v :: rest) :
    step s = .next { s with pending := rest, arg0 := v } := step_wr_offset hp

theorem step_wr_arg1 {s : State} {v : Word} {rest : List HostAction} (hp : s.pending = .wr Reg.arg1.offset v :: rest) :
    step s = .next { s with pending := rest, arg1 := v } := step_wr_offset hp

/-- The host actions that feed a list of bytes to CRC.UPD, one write of ARG0 and one command each. -/
def feedActions (bytes : List Byte) : List HostAction :=
  bytes.flatMap fun b => [HostAction.wr 0x008 (b.setWidth 32), HostAction.wr 0x000 0x11]

theorem feedActions_cons (b : Byte) (bytes : List Byte) :
    feedActions (b :: bytes) = .wr 0x008 (b.setWidth 32) :: .wr 0x000 0x11 :: feedActions bytes := rfl

/-- R105 over a list: the run leaves the accumulator that the bytes give, and its last operand; nothing else changes. -/
theorem run_feedActions (bytes : List Byte) (rest : List HostAction) {s : State} (herr : s.err = .ok)
    (hp : s.pending = feedActions bytes ++ rest) :
    ∃ a, Host.Core.run Sys2Proof.core (2 * bytes.length) s =
      .next { s with pending := rest, arg0 := a, crcAcc := crcFold s.cfg s.crcAcc bytes, err := .ok } := by
  induction bytes generalizing s with
  | nil =>
    have hrest : rest = s.pending := hp.symm
    refine ⟨s.arg0, ?_⟩
    rw [hrest, ← herr]
    rfl
  | cons b bytes ih =>
    rw [feedActions_cons, List.cons_append, List.cons_append] at hp
    have hbyte : (b.setWidth 32).extractLsb' 0 8 = b := by
      rw [← BitVec.setWidth_eq_extractLsb' (by decide), BitVec.setWidth_setWidth_of_le _ (by decide),
        BitVec.setWidth_eq]
    have hfeed (u : State) (hu : u.pending = .wr Reg.cmd.offset 0x11 :: (feedActions bytes ++ rest)) :=
      step_wr_cmd_of_decode hu (i := .crcUpd) rfl
    obtain ⟨a, hrun⟩ := ih (s := { s with
      pending := feedActions bytes ++ rest, arg0 := b.setWidth 32, crcAcc := crcUpdate s.cfg s.crcAcc b, err := .ok })
      rfl rfl
    refine ⟨a, ?_⟩
    rw [List.length_cons, Nat.mul_succ, run_step _ (step_wr_arg0 hp), run_step _ ((hfeed _ rfl).trans (exec_crcUpd _)),
      hbyte, hrun]
    rfl

/-- The run of CRC.CLR, the bytes and CRC.RD. -/
theorem run_byteSerial {s : State} {bytes : List Byte} {rest : List HostAction}
    (hp : s.pending = .wr Reg.cmd.offset 0x10 :: (feedActions bytes ++ .wr Reg.cmd.offset 0x12 :: rest)) :
    ∃ a, Host.Core.run Sys2Proof.core (2 * bytes.length + 2) s =
      .next { s with
        pending := rest, arg0 := a, crcAcc := crcFold s.cfg s.cfg.crcInit bytes,
        res := (crc16 s.cfg bytes).setWidth 32, err := .ok } := by
  have hclr := (step_wr_cmd_of_decode hp (i := .crcClr) rfl).trans (exec_crcClr _)
  obtain ⟨a, hfeed⟩ := run_feedActions bytes (.wr Reg.cmd.offset 0x12 :: rest) (s := { s with
    pending := feedActions bytes ++ .wr Reg.cmd.offset 0x12 :: rest, crcAcc := s.cfg.crcInit, err := .ok }) rfl rfl
  have hrd (u : State) (hu : u.pending = .wr Reg.cmd.offset 0x12 :: rest) :=
    (step_wr_cmd_of_decode hu (i := .crcRd) rfl).trans (exec_crcRd _)
  refine ⟨a, ?_⟩
  rw [run_step _ hclr, run_add 1 hfeed, run_step 0 (hrd _ rfl)]
  rfl

/-- R89: a command of format R or F is the writes of ARG0 and ARG1 and the write of its opcode. -/
theorem run_twoOperands {s t : State} {v0 v1 w : Word} {rest : List HostAction} {i : Instr}
    (hp : s.pending = .wr Reg.arg0.offset v0 :: .wr Reg.arg1.offset v1 :: .wr Reg.cmd.offset w :: rest)
    (hi : decodeOpcode (cmdOpcode w) = .ok i)
    (hexec : exec i { s with pending := rest, arg0 := v0, arg1 := v1 } = .next t) :
    Host.Core.run Sys2Proof.core 3 s = .next t := by
  have harg0 : step s = .next { s with
      pending := .wr Reg.arg1.offset v1 :: .wr Reg.cmd.offset w :: rest, arg0 := v0 } := step_wr_arg0 hp
  have harg1 : step { s with pending := .wr Reg.arg1.offset v1 :: .wr Reg.cmd.offset w :: rest, arg0 := v0 } =
      .next { s with pending := .wr Reg.cmd.offset w :: rest, arg0 := v0, arg1 := v1 } := step_wr_arg1 rfl
  have hcmd : step { s with pending := .wr Reg.cmd.offset w :: rest, arg0 := v0, arg1 := v1 } = .next t :=
    (step_wr_cmd_of_decode rfl (decode_cons_of_ok hi [])).trans hexec
  exact (run_step 2 harg0).trans ((run_step 1 harg1).trans (run_step 0 hcmd))

/-- R107 over the whole of a loaded list. -/
theorem exec_crcRange_loaded {s : State} {bytes : List Byte} (hib : s.ib = some (Memory.ofBytes bytes))
    (hoff : s.opOff = 0) (hlen : s.opRangeLen = bytes.length) :
    ∃ h, exec .crcRange s = .next { s with res := (crc16 s.cfg bytes).setWidth 32, err := .ok, hid := h } := by
  have hfits : s.opOff + s.opRangeLen ≤ (Memory.ofBytes bytes).len := by
    rw [hoff, hlen, Memory.ofBytes_len, Nat.zero_add]
  have hread : (Memory.ofBytes bytes).read 0 bytes.length = bytes := Memory.toBytes_ofBytes bytes
  rw [exec_crcRange, execCrcRange_of_le hib hfits, hoff, hlen, hread]
  exact ⟨_, rfl⟩

/-- The run of HOST.LOAD and CRC.RANGE over the whole buffer. -/
theorem run_loadedRange {s : State} {bytes : List Byte} {rest : List HostAction} (hmax : bytes.length ≤ s.cfg.ibMax)
    (hlen : bytes.length < 2 ^ 32)
    (hp : s.pending = .load bytes :: .wr Reg.arg0.offset 0 ::
      .wr Reg.arg1.offset (BitVec.ofNat 32 bytes.length) :: .wr Reg.cmd.offset 0x13 :: rest) :
    ∃ h, Host.Core.run Sys2Proof.core 4 s =
      .next { s with
        pending := rest, ib := some (Memory.ofBytes bytes), frame := none, arg0 := 0,
        arg1 := BitVec.ofNat 32 bytes.length, res := (crc16 s.cfg bytes).setWidth 32, err := .ok, hid := h } := by
  have hload : step s = .next { s with
      pending := .wr Reg.arg0.offset 0 :: .wr Reg.arg1.offset (BitVec.ofNat 32 bytes.length) ::
        .wr Reg.cmd.offset 0x13 :: rest,
      ib := some (Memory.ofBytes bytes), frame := none } :=
    (step_of_pending hp).trans (hostLoad_of_le hmax)
  obtain ⟨h, hrange⟩ := exec_crcRange_loaded (bytes := bytes) (s := { s with
      pending := rest, ib := some (Memory.ofBytes bytes), frame := none, arg0 := 0,
      arg1 := BitVec.ofNat 32 bytes.length }) rfl rfl (Nat.mod_eq_of_lt hlen)
  exact ⟨h, (run_step 3 hload).trans (run_twoOperands rfl rfl hrange)⟩

theorem cfg_ibMax_lt {c : Config} (h : c.wf = true) : c.ibMax < 2 ^ 32 := by
  simp only [Config.wf, Config.ibMaxOk, Bool.and_eq_true, decide_eq_true_iff] at h
  omega

/-- Settles O9: the two runs, which both end with `crc16` of the bytes in RES. -/
theorem byteSerialCrcEqualsRange : Obligations.ByteSerialCrcEqualsRange := by
  refine ⟨fun s bytes rest hp => ?serial, fun s bytes rest hwf hlen hp => ?range⟩
  case serial =>
    rw [List.append_assoc, List.append_assoc] at hp
    obtain ⟨a, hrun⟩ := run_byteSerial hp
    exact ⟨_, hrun, rfl, rfl, rfl, rfl, rfl, rfl⟩
  case range =>
    obtain ⟨h, hrun⟩ := run_loadedRange hlen (Nat.lt_of_le_of_lt hlen (cfg_ibMax_lt hwf)) hp
    exact ⟨_, hrun, rfl, rfl, rfl, rfl⟩

end Sys2Proof.Machine
end

section
/-! SUPPORT. The laws of the field functions (41_field_extract.md R126, R136): composition and decomposition as
inverses, a slice bit by bit, an inserted field read back, and the ICD header packed again from its own bytes. -/

namespace Sys2Proof.Machine

/-! ### Composition and decomposition -/

/-- R123 bit by bit: byte `i` of `n` holds the eight bits from `8 * (n - 1 - i)` up. -/
theorem getLsbD_getD_beBytes (v : Nat) {n i j : Nat} (hi : i < n) (hj : j < 8) :
    ((beBytes v n).getD i 0).getLsbD j = v.testBit (8 * (n - 1 - i) + j) := by
  rw [getD_beBytes v n i hi, BitVec.getLsbD_ofNat, decide_eq_true hj, Bool.true_and, Nat.testBit_div_two_pow,
    Nat.add_comm]

/-- R126 (a): decomposing and composing again keeps the low 8n bits. -/
theorem be_beBytes (v n : Nat) : be (beBytes v n) = v % 2 ^ (8 * n) := by
  refine Nat.eq_of_testBit_eq fun j => ?_
  rw [Nat.testBit_mod_two_pow]
  by_cases hj : j < 8 * n
  · have hbyte : n - 1 - (n - 1 - j / 8) = j / 8 := by omega
    have hbit := testBit_be (beBytes v n) (j := j) (by rwa [length_beBytes])
    rw [length_beBytes, getLsbD_getD_beBytes v (by omega) (Nat.mod_lt j (by decide)), hbyte, Nat.div_add_mod] at hbit
    rw [hbit, decide_eq_true hj, Bool.true_and]
  · have hsmall : be (beBytes v n) < 2 ^ j := by
      have hlt := be_lt (beBytes v n)
      rw [length_beBytes, show 256 = 2 ^ 8 from rfl, ← Nat.pow_mul] at hlt
      exact Nat.lt_of_lt_of_le hlt (Nat.pow_le_pow_right (by decide) (by omega))
    rw [Nat.testBit_lt_two_pow hsmall, decide_eq_false hj, Bool.false_and]

/-- Two lists of bytes of one length are equal when their bytes agree bit by bit. -/
theorem bytes_ext {l r : List Byte} (hlen : l.length = r.length)
    (h : ∀ i < l.length, ∀ j < 8, (l.getD i 0).getLsbD j = (r.getD i 0).getLsbD j) : l = r := by
  refine List.ext_getElem hlen fun i hl hr => BitVec.eq_of_getLsbD_eq fun j hj => ?_
  have hbit := h i hl j hj
  rwa [List.getD_eq_getElem _ _ hl, List.getD_eq_getElem _ _ hr] at hbit

/-- R126 (a): composing and decomposing again gives the bytes back. -/
theorem beBytes_be (l : List Byte) : beBytes (be l) l.length = l := by
  refine bytes_ext (length_beBytes _ _) fun i hi j hj => ?_
  rw [length_beBytes] at hi
  have hbyte : l.length - 1 - (8 * (l.length - 1 - i) + j) / 8 = i := by omega
  have hbit : (8 * (l.length - 1 - i) + j) % 8 = j := by omega
  rw [getLsbD_getD_beBytes _ hi hj, testBit_be l (by omega), hbyte, hbit]

/-- R124: the reversed decomposition is the big-endian one from its other end. -/
theorem revBytes_eq_reverse (v n : Nat) : revBytes v n = (beBytes v n).reverse := by
  refine List.ext_getElem (by simp) fun i hl hr => ?_
  have hi : i < n := by simpa using hl
  have hrev := getD_revBytes v n i hi
  have hbe := getD_beBytes v n (n - 1 - i) (by omega)
  rw [List.getD_eq_getElem _ _ hl] at hrev
  rw [List.getD_eq_getElem _ _ (by rw [length_beBytes]; omega), show n - 1 - (n - 1 - i) = i by omega] at hbe
  simp only [List.getElem_reverse, length_beBytes]
  rw [hrev, hbe]

/-- R126 (b): the same two laws in the reversed order. -/
theorem rev_revBytes (v n : Nat) : rev (revBytes v n) = v % 2 ^ (8 * n) := by
  rw [rev_eq_be_reverse, revBytes_eq_reverse, List.reverse_reverse, be_beBytes]

theorem revBytes_rev (l : List Byte) : revBytes (rev l) l.length = l := by
  rw [revBytes_eq_reverse, rev_eq_be_reverse, ← List.length_reverse, beBytes_be, List.reverse_reverse]

/-! ### Slices and insertions -/

/-- R122 bit by bit. -/
theorem testBit_slice (v lsb w i : Nat) : (slice v lsb w).testBit i = (decide (i < w) && v.testBit (lsb + i)) := by
  rw [slice, Nat.testBit_mod_two_pow, Nat.testBit_div_two_pow, Nat.add_comm]

/-- R125 on every bit of a word, those beyond bit 31 included. -/
theorem testBit_insertField (old v : Word) {lsb w : Nat} (h : lsb + w ≤ 32) (j : Nat) :
    (insertField old lsb w v).toNat.testBit j =
      if lsb ≤ j ∧ j < lsb + w then v.toNat.testBit (j - lsb) else old.toNat.testBit j := by
  simp only [BitVec.testBit_toNat]
  by_cases hj : j < 32
  · exact getLsbD_insertField old v h hj
  · rw [if_neg (by omega), BitVec.getLsbD_of_ge _ _ (by omega), BitVec.getLsbD_of_ge _ _ (by omega)]

/-- R126 (c): the field reads back. -/
theorem slice_insertField_self (old v : Word) {lsb w : Nat} (h : lsb + w ≤ 32) :
    slice (insertField old lsb w v).toNat lsb w = v.toNat % 2 ^ w := by
  refine Nat.eq_of_testBit_eq fun i => ?_
  rw [testBit_slice, testBit_insertField old v h, Nat.testBit_mod_two_pow]
  by_cases hi : i < w
  · rw [if_pos (by omega), Nat.add_sub_cancel_left]
  · rw [decide_eq_false hi, Bool.false_and, Bool.false_and]

/-- R126 (d): a field that shares no bit with it is not disturbed. -/
theorem slice_insertField_disjoint (old v : Word) {lsb w l2 w2 : Nat} (h : lsb + w ≤ 32)
    (hdisjoint : l2 + w2 ≤ lsb ∨ lsb + w ≤ l2) :
    slice (insertField old lsb w v).toNat l2 w2 = slice old.toNat l2 w2 := by
  refine Nat.eq_of_testBit_eq fun i => ?_
  rw [testBit_slice, testBit_slice, testBit_insertField old v h]
  by_cases hi : i < w2
  · rw [if_neg (by omega)]
  · rw [decide_eq_false hi, Bool.false_and, Bool.false_and]

/-- R126 (e): inserting the field's own value changes nothing. -/
theorem insertField_slice_self (old : Word) {lsb w : Nat} (h : lsb + w ≤ 32) :
    insertField old lsb w (BitVec.ofNat 32 (slice old.toNat lsb w)) = old := by
  refine BitVec.eq_of_getLsbD_eq fun j hj => ?_
  rw [getLsbD_insertField old _ h hj]
  split
  case isTrue hin =>
    rw [BitVec.getLsbD_ofNat, testBit_slice, decide_eq_true (show j - lsb < 32 by omega),
      decide_eq_true (show j - lsb < w by omega), Nat.add_sub_cancel' hin.1, BitVec.testBit_toNat, Bool.true_and,
      Bool.true_and]
  case isFalse => rfl

/-- Settles O54: R126's laws (a) to (e). -/
theorem fieldFunctionLaws : Obligations.FieldFunctionLaws :=
  ⟨be_beBytes, beBytes_be, rev_revBytes, revBytes_rev, fun old v _ _ h => slice_insertField_self old v h,
    fun old v _ _ _ _ h hdisjoint => slice_insertField_disjoint old v h hdisjoint,
    fun old _ _ h => insertField_slice_self old h⟩

/-- R133 done twice: the field is already in the group. -/
theorem insertedGroup_insertedGroup (v : Word) {old : List Byte} {n lsb w : Nat} (hold : old.length = n) (hn : n ≤ 4)
    (h : lsb + w ≤ 8 * n) :
    insertedGroup n lsb w v (insertedGroup n lsb w v old) = insertedGroup n lsb w v old := by
  refine bytes_ext (by simp) fun i hi j hj => ?_
  rw [length_insertedGroup] at hi
  have hbyte : n - 1 - (8 * (n - 1 - i) + j) / 8 = i := by omega
  have hbit : (8 * (n - 1 - i) + j) % 8 = j := by omega
  have hfirst := getLsbD_insertedGroup v hold hn h (j := 8 * (n - 1 - i) + j) (by omega)
  have hsecond := getLsbD_insertedGroup v (length_insertedGroup n lsb w v old) hn h (j := 8 * (n - 1 - i) + j)
    (by omega)
  rw [hbyte, hbit] at hfirst hsecond
  rw [hsecond, hfirst]
  split <;> rfl

/-! ### The ICD header packed again -/

/-- R136 on any six bytes: the fields tile them. -/
theorem packIcd_unpackIcd_bytes (i0 i1 i2 i3 i4 i5 : Byte) :
    packIcd (unpackIcd [i0, i1, i2, i3, i4, i5]) = [i0, i1, i2, i3, i4, i5] := by
  have hbyte0 : i0.extractLsb' 5 3 ++ i0.extractLsb' 4 1 ++ i0.extractLsb' 3 1 ++ i0.extractLsb' 0 3 = i0 := by
    have hvt : i0.extractLsb' 5 3 ++ i0.extractLsb' 4 1 = i0.extractLsb' 4 4 :=
      BitVec.extractLsb'_append_extractLsb'_eq_extractLsb' rfl
    have hvtf : i0.extractLsb' 4 4 ++ i0.extractLsb' 3 1 = i0.extractLsb' 3 5 :=
      BitVec.extractLsb'_append_extractLsb'_eq_extractLsb' rfl
    rw [hvt, hvtf]
    exact append_extractLsb'_self (hi := 5) (lo := 3) i0
  have hbyte2 : i2.extractLsb' 6 2 ++ i2.extractLsb' 0 6 = i2 := append_extractLsb'_self (hi := 2) (lo := 6) i2
  rw [unpackIcd_bytes, packIcd_append, hbyte0, hbyte2]

/-- R136: packing inverts unpacking. -/
theorem packIcd_unpackIcd {h : List Byte} (hlen : h.length = 6) : packIcd (unpackIcd h) = h := by
  match h, hlen with
  | [i0, i1, i2, i3, i4, i5], _ => exact packIcd_unpackIcd_bytes i0 i1 i2 i3 i4 i5

/-- Settles O53: the two directions. -/
theorem icdPackingIsExact : Obligations.IcdPackingIsExact :=
  ⟨fun _ hlen => packIcd_unpackIcd hlen, unpackIcd_packIcd⟩

end Sys2Proof.Machine
end

section
/-! SUPPORT. The seven PARSE commands together (42_parse_sptp_icd.md R155 to R158): the lengths that a kind accepts, the
frame that a buffer holds as a kind, and what follows for every successful parse. -/

namespace Sys2Proof.Machine

/-! ### Accepted lengths -/

/-- The lengths that R204's table accepts; `lengthError_eq_none_iff` says that they are. -/
def FrameKind.Accepts : FrameKind → Nat → Prop
  | .sptp, len => 4 ≤ len
  | .icd, len => 10 ≤ len
  | .tm, len => 16 ≤ len
  | .tk, len => 16 ≤ len
  | .obt, len => len = 16
  | .hsi, len => 4 ≤ len
  | .tc, len => len = 1

theorem lengthError_eq_none_iff (c : Config) (k : FrameKind) (len : Nat) :
    lengthError c (some k) len = none ↔ k.Accepts len := by
  cases k with
  | tc =>
    by_cases hempty : len = 0
    · simp [lengthError, FrameKind.Accepts, hempty]
    · simp [lengthError, FrameKind.Accepts, hempty]
  | sptp | icd | tm | tk | obt | hsi => simp [lengthError, FrameKind.Accepts]

/-- No accepted length is refused, and every other one is. -/
theorem exists_lengthError_of_not_accepts (c : Config) {k : FrameKind} {len : Nat} (h : ¬k.Accepts len) :
    ∃ e, lengthError c (some k) len = some e :=
  Option.ne_none_iff_exists'.mp fun hnone => h ((lengthError_eq_none_iff c k len).mp hnone)

/-- R204: what a kind's length policy raises is an error. -/
theorem lengthError_ne_ok {c : Config} {k : FrameKind} {len : Nat} {e : Err}
    (h : lengthError c (some k) len = some e) : e ≠ .ok := by
  cases k with
  | tc =>
    by_cases hempty : len = 0
    · obtain rfl := by simpa [lengthError, hempty] using h
      exact shortErr_ne_ok _
    · obtain ⟨-, rfl⟩ := by simpa [lengthError, hempty] using h
      exact nofun
  | sptp | icd | tm | tk | obt | hsi =>
    obtain ⟨-, rfl⟩ := by simpa [lengthError] using h
    exact nofun

/-! ### The frame that a buffer holds -/

/-- The frame that the PARSE command of a kind commits from a buffer whose length the kind accepts;
`exec_instr_of_accepts` says that it does. -/
def Memory.frameAs (m : Memory) (c : Config) : FrameKind → Frame
  | .sptp => sptpFrame (m.read 0 4) m.len
  | .icd => icdFrame (m.read 0 4) (m.read 4 6) m.len
  | .tm => tmtkFrame .tm (m.read 0 4) (m.read 4 6) (m.read 10 4) (m.read (m.len - 2) 2)
      (crc16 c (m.read 4 (m.len - 6))) m.len
  | .tk => tmtkFrame .tk (m.read 0 4) (m.read 4 6) (m.read 10 4) (m.read (m.len - 2) 2)
      (crc16 c (m.read 4 (m.len - 6))) m.len
  | .obt => obtFrame (m.read 0 4) (m.read 4 6) (m.read 10 6)
  | .hsi => hsiFrame (m.read 0 4) m.len
  | .tc => tcFrame (m.read 0 1)

@[simp] theorem frameAs_kind (m : Memory) (c : Config) (k : FrameKind) : (m.frameAs c k).kind = k := by
  cases k <;> rfl

/-- R71: the kinds that begin with the SPTP header read it alike. -/
theorem frameAs_sptp (m : Memory) (c : Config) {k : FrameKind} (hk : k ∈ [.sptp, .icd, .tm, .tk, .obt]) :
    (m.frameAs c k).sptp = sptpRegs (m.read 0 4) := by
  cases k with
  | sptp | icd | tm | tk | obt => rfl
  | hsi | tc => exact absurd hk (by decide)

/-- R153: the kinds that have the ICD header read it alike. -/
theorem frameAs_icd (m : Memory) (c : Config) {k : FrameKind} (hk : k ∈ [.sptp, .icd, .tm, .tk, .obt])
    (hsptp : k ≠ .sptp) : (m.frameAs c k).icd = unpackIcd (m.read 4 6) := by
  cases k with
  | icd | tm | tk | obt => rfl
  | sptp => exact absurd rfl hsptp
  | hsi | tc => exact absurd hk (by decide)

/-- R155, R213: what a PARSE command leaves of a buffer that its kind accepts. The registers that it writes depend on
the buffer and the parameters alone. -/
theorem exec_instr_of_accepts {m : Memory} {k : FrameKind} (c : Config) (h : k.Accepts m.len) :
    ∃ n captured crc, captured.length ≤ 16 ∧ ∀ s : State, s.cfg = c → s.ib = some m →
      exec k.instr s = .next (commitFrame (m.frameAs c k) (hiddenAfterCommit k n captured crc s.hid) s) := by
  cases k with
  | sptp =>
    refine ⟨4, m.read 0 4, c.crcInit, by simp, ?_⟩
    rintro s rfl hm
    exact execParseSptp_of_le hm h
  | icd =>
    refine ⟨10, m.read 0 10, c.crcInit, by simp, ?_⟩
    rintro s rfl hm
    exact execParseIcd_of_le hm h
  | tm =>
    refine ⟨m.len, m.read 0 14 ++ m.read (m.len - 2) 2, crcFold c c.crcInit (m.read 4 (m.len - 6)), by simp, ?_⟩
    rintro s rfl hm
    exact parseTmTk_of_le hm h .tm
  | tk =>
    refine ⟨m.len, m.read 0 14 ++ m.read (m.len - 2) 2, crcFold c c.crcInit (m.read 4 (m.len - 6)), by simp, ?_⟩
    rintro s rfl hm
    exact parseTmTk_of_le hm h .tk
  | obt =>
    refine ⟨16, m.read 0 16, c.crcInit, by simp, ?_⟩
    rintro s rfl hm
    exact execParseObt_of_eq hm h
  | hsi =>
    refine ⟨4, m.read 0 4, c.crcInit, by simp, ?_⟩
    rintro s rfl hm
    exact execParseHsi_of_le hm h
  | tc =>
    refine ⟨1, m.read 0 1, c.crcInit, by simp, ?_⟩
    rintro s rfl hm
    exact execParseTc_of_eq hm h

/-- R155: a PARSE command that ended without an error committed the frame of a buffer that its kind accepts. -/
theorem parsed_inv {k : FrameKind} {s t : State} (h : exec k.instr s = .next t) (hok : t.err = .ok) :
    ∃ m, s.ib = some m ∧ k.Accepts m.len ∧ t.frame = some (m.frameAs s.cfg k) := by
  cases hm : s.ib with
  | none =>
    rw [exec_instr_of_absent hm] at h
    cases h
    cases hok
  | some m =>
    by_cases haccept : k.Accepts m.len
    · obtain ⟨n, captured, crc, -, hexec⟩ := exec_instr_of_accepts s.cfg haccept
      rw [hexec s rfl hm] at h
      cases h
      exact ⟨m, rfl, haccept, rfl⟩
    · obtain ⟨e, he⟩ := exists_lengthError_of_not_accepts s.cfg haccept
      rw [exec_instr_of_refused hm he] at h
      cases h
      exact absurd hok (lengthError_ne_ok he)

/-- Settles O30: the committed frame has the command's kind, whose code is the low nibble plus 1. -/
theorem parseOpcodeGivesKind : Obligations.ParseOpcodeGivesKind := by
  intro k s t h hok
  obtain ⟨m, -, -, hframe⟩ := parsed_inv h hok
  have hvalid : t.frameValid = true := by
    rw [State.frameValid, hframe]
    rfl
  have hkind : t.kindCode = k.code := by
    simp only [State.kindCode, hframe, frameAs_kind]
  rw [hkind]
  refine ⟨hvalid, ?_, ?_⟩ <;> cases k <;> rfl

/-- Settles O55: both parses read the one buffer. -/
theorem layersAgreeOnSharedRegisters : Obligations.LayersAgreeOnSharedRegisters := by
  intro j k s t u f g hj hk ht hu hf hg htok huok
  obtain ⟨m, hm, -, hft⟩ := parsed_inv ht htok
  obtain ⟨m', hm', -, hgu⟩ := parsed_inv hu huok
  obtain rfl : m = m' := Option.some.inj (hm.symm.trans hm')
  obtain rfl : f = m.frameAs s.cfg j := Option.some.inj (hf.symm.trans hft)
  obtain rfl : g = m.frameAs s.cfg k := Option.some.inj (hg.symm.trans hgu)
  refine ⟨?sptp, fun hjs hks => ?icd⟩
  case sptp => rw [frameAs_sptp m _ hj, frameAs_sptp m _ hk]
  case icd => rw [frameAs_icd m _ hj hjs, frameAs_icd m _ hk hks]

/-! ### Packing a parsed frame again -/

/-- R158: the bytes of a register that holds `n` bytes of the buffer. -/
theorem beBytes_ofNat_be_read (m : Memory) (off n : Nat) :
    beBytes (BitVec.ofNat (8 * n) (be (m.read off n))).toNat n = m.read off n := by
  have hlt : be (m.read off n) < 2 ^ (8 * n) := by
    have h := be_lt (m.read off n)
    rwa [Memory.length_read, show 256 = 2 ^ 8 from rfl, ← Nat.pow_mul] at h
  have hbytes := beBytes_be (m.read off n)
  rw [Memory.length_read] at hbytes
  rw [BitVec.toNat_ofNat, Nat.mod_eq_of_lt hlt, hbytes]

/-- R66: the four bytes of the OBT record's Value. -/
theorem revBytes_ofNat_rev_read (m : Memory) (off : Nat) :
    revBytes (BitVec.ofNat 32 (rev (m.read off 4))).toNat 4 = m.read off 4 := by
  have hlt : rev (m.read off 4) < 2 ^ 32 := by
    have h := be_lt (m.read off 4).reverse
    rwa [← rev_eq_be_reverse, List.length_reverse, Memory.length_read] at h
  have hbytes := revBytes_rev (m.read off 4)
  rw [Memory.length_read] at hbytes
  rw [BitVec.toNat_ofNat, Nat.mod_eq_of_lt hlt, hbytes]

theorem packIcd_unpackIcd_read (m : Memory) : packIcd (unpackIcd (m.read 4 6)) = m.read 4 6 :=
  packIcd_unpackIcd (Memory.length_read m 4 6)

/-- R150: the four SPTP registers are the first four bytes. -/
theorem sptpBytes_of_read {f : Frame} {m : Memory} (h : f.sptp = sptpRegs (m.read 0 4)) :
    Frame.repacked.sptpBytes f = m.read 0 4 := by
  rw [Frame.repacked.sptpBytes, h, Memory.read_eq]
  rfl

/-- R190: Line and Size tile the last two bytes of the HSI header. -/
theorem beBytes_line_size (hi lo : Byte) :
    beBytes ((hi.extractLsb' 7 1).toNat * 2 ^ 15 + (hi.extractLsb' 0 7 ++ lo).toNat) 2 = [hi, lo] := by
  have hgroup : (hi.extractLsb' 7 1).toNat * 2 ^ 15 + (hi.extractLsb' 0 7 ++ lo).toNat = (hi ++ lo).toNat := by
    have hhi : hi.toNat = (hi.extractLsb' 7 1).toNat * 2 ^ 7 + (hi.extractLsb' 0 7).toNat := by
      rw [← toNat_append_eq, append_extractLsb'_self (hi := 1) (lo := 7) hi]
    rw [toNat_append_eq, toNat_append_eq, hhi]
    ring
  rw [hgroup, beBytes_append]

/-- R40: a view up to the end of the buffer names all of it. -/
theorem read_viewFrom {m : Memory} {off : Nat} (hoff : off ≤ m.len) (hmax : m.len < 2 ^ 32) :
    m.read (viewFrom off m.len).off.toNat (viewFrom off m.len).len.toNat = m.read off (m.len - off) := by
  have hoffset : (BitVec.ofNat 32 off).toNat = off := Nat.mod_eq_of_lt (by omega)
  have hlength : (BitVec.ofNat 32 (m.len - off)).toNat = m.len - off := Nat.mod_eq_of_lt (by omega)
  rw [viewFrom, hoffset, hlength]

/-- Two ranges, the second from where the first ends. -/
theorem read_append_read (m : Memory) {a b n k : Nat} (h : a + n = b) :
    m.read a n ++ m.read b k = m.read a (n + k) := by
  rw [Memory.read_add, h]

/-- A buffer is a range from its start and the rest of it. -/
theorem read_append_rest (m : Memory) {n : Nat} (h : n ≤ m.len) : m.read 0 n ++ m.read n (m.len - n) = m.toBytes := by
  rw [read_append_read m (Nat.zero_add n), Nat.add_sub_cancel' h]
  rfl

/-- R170, R174: a TM or TK frame is its headers, its sub-header, what lies between, and its trailer. -/
theorem tmtkBytes_of_read {f : Frame} {m : Memory} (hlen : 16 ≤ m.len) (hsptp : f.sptp = sptpRegs (m.read 0 4))
    (hicd : f.icd = unpackIcd (m.read 4 6)) (hsub : f.tmtk.subhdr = BitVec.ofNat 32 (be (m.read 10 4)))
    (hcrc : f.tmtk.crc = BitVec.ofNat 16 (be (m.read (m.len - 2) 2))) :
    Frame.repacked.tmtkBytes m f = m.toBytes := by
  have hsubBytes : beBytes f.tmtk.subhdr.toNat 4 = m.read 10 4 := hsub ▸ beBytes_ofNat_be_read m 10 4
  have hcrcBytes : beBytes f.tmtk.crc.toNat 2 = m.read (m.len - 2) 2 := hcrc ▸ beBytes_ofNat_be_read m (m.len - 2) 2
  have hbetween : 0 + (4 + 6 + 4 + (m.len - 16)) = m.len - 2 := by omega
  have htotal : 4 + 6 + 4 + (m.len - 16) + 2 = m.len := by omega
  rw [Frame.repacked.tmtkBytes, sptpBytes_of_read hsptp, hicd, packIcd_unpackIcd_read, hsubBytes, hcrcBytes,
    read_append_read m rfl, read_append_read m rfl, read_append_read m rfl, read_append_read m hbetween, htotal]
  rfl

/-- R158, kind by kind. -/
theorem repacked_frameAs {m : Memory} {k : FrameKind} (c : Config) (h : k.Accepts m.len) (hmax : m.len < 2 ^ 32) :
    (m.frameAs c k).repacked m = m.toBytes := by
  cases k with
  | sptp =>
    have hlen : 4 ≤ m.len := h
    have hrest : m.read (m.frameAs c .sptp).pay0.off.toNat (m.frameAs c .sptp).pay0.len.toNat = m.read 4 (m.len - 4) :=
      read_viewFrom hlen hmax
    show Frame.repacked.sptpBytes (m.frameAs c .sptp) ++ _ = _
    rw [sptpBytes_of_read rfl, hrest, read_append_rest m hlen]
  | icd =>
    have hlen : 10 ≤ m.len := h
    have hrest : m.read (m.frameAs c .icd).pay1.off.toNat (m.frameAs c .icd).pay1.len.toNat = m.read 10 (m.len - 10) :=
      read_viewFrom hlen hmax
    show Frame.repacked.sptpBytes (m.frameAs c .icd) ++ packIcd (unpackIcd (m.read 4 6)) ++ _ = _
    rw [sptpBytes_of_read rfl, packIcd_unpackIcd_read, hrest, read_append_read m rfl, read_append_rest m hlen]
  | tm => exact tmtkBytes_of_read h rfl rfl rfl rfl
  | tk => exact tmtkBytes_of_read h rfl rfl rfl rfl
  | obt =>
    have hlen : m.len = 16 := h
    have hvalue : (m.read 10 6).drop 2 = m.read 12 4 := by
      rw [Memory.read_add m 10 2 4, List.drop_left' (Memory.length_read m 10 2)]
    have hrecord : [(m.read 10 6).getD 0 0, (m.read 10 6).getD 1 0] = m.read 10 2 := by
      rw [Memory.read_eq, Memory.read_eq]
      rfl
    show Frame.repacked.sptpBytes (m.frameAs c .obt) ++ packIcd (unpackIcd (m.read 4 6)) ++
      [(m.read 10 6).getD 0 0, (m.read 10 6).getD 1 0] ++
      revBytes (BitVec.ofNat 32 (rev ((m.read 10 6).drop 2))).toNat 4 = _
    rw [sptpBytes_of_read rfl, packIcd_unpackIcd_read, hvalue, hrecord, revBytes_ofNat_rev_read, read_append_read m rfl,
      read_append_read m rfl, read_append_read m rfl, Memory.toBytes, hlen]
  | hsi =>
    have hlen : 4 ≤ m.len := h
    have hrest : m.read (viewFrom 4 m.len).off.toNat (viewFrom 4 m.len).len.toNat = m.read 4 (m.len - 4) :=
      read_viewFrom hlen hmax
    have hheader : [m.byte 0, m.byte 1] ++ [m.byte 2, m.byte 3] = m.read 0 4 := by
      rw [Memory.read_eq]
      rfl
    have hframe : m.frameAs c .hsi = _ := hsiFrame_read m
    rw [hframe]
    show [m.byte 0, m.byte 1] ++ beBytes (((m.byte 2).extractLsb' 7 1).toNat * 2 ^ 15 +
      ((m.byte 2).extractLsb' 0 7 ++ m.byte 3).toNat) 2 ++
      m.read (viewFrom 4 m.len).off.toNat (viewFrom 4 m.len).len.toNat = _
    rw [beBytes_line_size, hheader, hrest, read_append_rest m hlen]
  | tc =>
    have hlen : m.len = 1 := h
    have hframe : m.frameAs c .tc = _ := tcFrame_read m
    rw [hframe, Memory.toBytes, hlen, Memory.read_eq]
    rfl

/-- Settles O52: the parsed frame is the buffer's, which its registers pack again. -/
theorem parsedFieldsRebuildTheBuffer : Obligations.ParsedFieldsRebuildTheBuffer := by
  intro k s t m f hm hmax h hok hf
  obtain ⟨m', hm', haccept, hframe⟩ := parsed_inv h hok
  obtain rfl : m = m' := Option.some.inj (hm.symm.trans hm')
  obtain rfl : f = m.frameAs s.cfg k := Option.some.inj (hf.symm.trans hframe)
  exact repacked_frameAs s.cfg haccept hmax

end Sys2Proof.Machine
end

section
/-! SUPPORT. The byte-serial parser by itself (45_parser_fsm.md R213 to R215): the edges that a micro-step goes along,
the registers that it changes, and the counts of R215, which do not depend on what SH holds. -/

namespace Sys2Proof.Machine

/-! ### Edges -/

theorem ite_mem_edges {p : Prop} [Decidable p] {a b : PState} {edges : List PState} (ha : a ∈ edges) (hb : b ∈ edges) :
    (if p then a else b) ∈ edges := by
  split
  · exact ha
  · exact hb

theorem firstCapture_mem_edges (k : Option FrameKind) : firstCapture k ∈ fsmEdges .check :=
  ite_mem_edges (by decide) (ite_mem_edges (by decide) (by decide))

/-- What P_CHECK can do: leave for P_FAIL, or begin to read. -/
theorem microCheck_cases (s : State) :
    (∃ e, microCheck s = microReject e s) ∨
    microCheck s = { s with hid := { s.hid with crcWork := s.cfg.crcInit, pstate := firstCapture s.hid.pkind } } := by
  obtain hm | ⟨m, hm⟩ := Option.eq_none_or_eq_some s.ib
  · exact .inl ⟨_, microCheck_of_absent hm⟩
  · obtain he | ⟨e, he⟩ := Option.eq_none_or_eq_some (lengthError s.cfg s.hid.pkind m.len)
    · exact .inr (microCheck_of_accepted hm he)
    · exact .inl ⟨e, microCheck_of_refused hm he⟩

/-- R213: P_COMMIT always ends in P_IDLE. -/
theorem microCommit_pstate (s : State) : (microCommit s).hid.pstate = .idle := by
  unfold microCommit
  split <;> rfl

/-- R215, state by state. -/
theorem microStep_mem_edges {s : State} (h : s.hid.pstate ≠ .idle) :
    (microStep s).hid.pstate ∈ fsmEdges s.hid.pstate := by
  cases hst : s.hid.pstate with
  | idle => exact absurd hst h
  | check =>
    simp only [microStep, hst]
    obtain ⟨e, hreject⟩ | haccept := microCheck_cases s
    · rw [hreject]
      exact List.mem_cons_self
    · rw [haccept]
      exact firstCapture_mem_edges _
  | sptp =>
    simp only [microStep, hst]
    exact ite_mem_edges (ite_mem_edges (by decide) (by decide)) (by decide)
  | icd =>
    simp only [microStep, hst]
    exact ite_mem_edges (ite_mem_edges (by decide) (ite_mem_edges (by decide) (by decide))) (by decide)
  | sub =>
    simp only [microStep, hst]
    exact ite_mem_edges (ite_mem_edges (by decide) (by decide)) (by decide)
  | pay | crc | obt | hsi =>
    simp only [microStep, hst]
    exact ite_mem_edges (by decide) (by decide)
  | tc =>
    simp only [microStep, hst]
    exact List.mem_cons_self
  | commit =>
    simp only [microStep, hst, microCommit_pstate]
    exact List.mem_cons_self
  | fail =>
    simp only [microStep, hst, microFail, raiseErr_hid]
    exact List.mem_cons_self

theorem eq_check_of_fail_mem_edges {st : PState} (h : .fail ∈ fsmEdges st) : st = .check := by
  cases st with
  | check => rfl
  | idle | sptp | icd | sub | pay | crc | obt | hsi | tc | commit | fail => exact absurd h (by decide)

/-- Settles O42: the edges of each state, and P_FAIL on those of P_CHECK alone. -/
theorem parserFollowsItsGraph : Obligations.ParserFollowsItsGraph := by
  refine ⟨fun s => microStep_mem_edges, fun k s => List.mem_cons_self, fun s _ hfail => ?_⟩
  by_cases hidle : s.hid.pstate = .idle
  · rw [microStep_of_idle hidle, hidle] at hfail
    cases hfail
  · have hedge := microStep_mem_edges hidle
    rw [hfail] at hedge
    exact eq_check_of_fail_mem_edges hedge

/-! ### What a micro-step changes -/

/-- Settles O43: every state but the two reads its next byte, or decides, in the hidden registers. -/
theorem parserHidesPartialFrames : Obligations.ParserHidesPartialFrames := by
  intro s hcommit hfail
  cases hst : s.hid.pstate with
  | commit => exact absurd hst hcommit
  | fail => exact absurd hst hfail
  | idle => exact ⟨s.hid, microStep_of_idle hst⟩
  | check =>
    simp only [microStep, hst]
    obtain ⟨e, hreject⟩ | haccept := microCheck_cases s
    · exact ⟨_, hreject⟩
    · exact ⟨_, haccept⟩
  | sptp | icd | sub | pay | crc | obt | hsi | tc =>
    simp only [microStep, hst]
    exact ⟨_, rfl⟩

/-! ### What the course of a run depends on -/

/-- Two states that differ at most in the held frame and in SH. -/
def SameControl (u v : State) : Prop := ∃ f sh, v = { u with frame := f, hid := { u.hid with sh := sh } }

theorem SameControl.pstate {u v : State} (h : SameControl u v) : v.hid.pstate = u.hid.pstate := by
  obtain ⟨f, sh, rfl⟩ := h
  rfl

/-- R204: the length check looks at neither. -/
theorem microCheck_sameControl {u v : State} (h : SameControl u v) : SameControl (microCheck u) (microCheck v) := by
  obtain ⟨f, sh, rfl⟩ := h
  obtain hm | ⟨m, hm⟩ := Option.eq_none_or_eq_some u.ib
  · rw [microCheck_of_absent hm, microCheck_of_absent (u := { u with frame := f, hid := { u.hid with sh := sh } }) hm]
    exact ⟨_, _, rfl⟩
  · obtain he | ⟨e, he⟩ := Option.eq_none_or_eq_some (lengthError u.cfg u.hid.pkind m.len)
    · rw [microCheck_of_accepted hm he,
        microCheck_of_accepted (u := { u with frame := f, hid := { u.hid with sh := sh } }) hm he]
      exact ⟨_, _, rfl⟩
    · rw [microCheck_of_refused hm he,
        microCheck_of_refused (u := { u with frame := f, hid := { u.hid with sh := sh } }) hm he]
      exact ⟨_, _, rfl⟩

/-- R213: the commit writes what SH holds into the frame, and nothing else of it anywhere. -/
theorem microCommit_sameControl {u v : State} (h : SameControl u v) : SameControl (microCommit u) (microCommit v) := by
  obtain ⟨f, sh, rfl⟩ := h
  simp only [microCommit]
  cases u.hid.pkind <;> exact ⟨_, _, rfl⟩

/-- R204 to R214: no micro-step decides anything by the bytes that SH holds, or by the held frame. -/
theorem microStep_sameControl {u v : State} (h : SameControl u v) : SameControl (microStep u) (microStep v) := by
  have hpstate := h.pstate
  cases hst : u.hid.pstate with
  | idle =>
    rw [microStep_of_idle hst, microStep_of_idle (hpstate.trans hst)]
    exact h
  | check =>
    simp only [microStep, hpstate, hst]
    exact microCheck_sameControl h
  | commit =>
    simp only [microStep, hpstate, hst]
    exact microCommit_sameControl h
  | sptp | icd | sub | pay | crc | obt | hsi | tc | fail =>
    simp only [microStep, hpstate, hst]
    obtain ⟨f, sh, rfl⟩ := h
    exact ⟨_, _, rfl⟩

theorem microRun_sameControl (n : Nat) {u v : State} (h : SameControl u v) :
    SameControl (microRun n u) (microRun n v) := by
  induction n generalizing u v with
  | zero => exact h
  | succ n ih => exact ih (microStep_sameControl h)

/-! ### Counts -/

/-- R215: the micro-steps of a parse that is not refused; `microCount_eq_ite` says that `microCount` is this. -/
def FrameKind.acceptedCount : FrameKind → Nat → Nat
  | .sptp, _ => 6
  | .icd, _ => 12
  | .tm, len => len + 2
  | .tk, len => len + 2
  | .obt, _ => 18
  | .hsi, _ => 6
  | .tc, _ => 3

theorem microCount_eq_ite {s : State} {m : Memory} (hm : s.ib = some m) (k : FrameKind) {p : Prop} [Decidable p]
    (hp : k.Accepts m.len ↔ p) : microCount k s = if p then k.acceptedCount m.len else 2 := by
  by_cases haccept : k.Accepts m.len
  · have hnone := (lengthError_eq_none_iff s.cfg k m.len).mpr haccept
    rw [if_pos (hp.mp haccept)]
    simp only [microCount, hm, hnone]
    cases k <;> rfl
  · obtain ⟨e, he⟩ := exists_lengthError_of_not_accepts s.cfg haccept
    rw [if_neg (mt hp.mpr haccept), microCount_of_refused hm he]

/-- R215 from every state, whatever SH holds: the run from the same state with sixteen bytes in SH takes the same
course. -/
theorem microRun_microCount (k : FrameKind) {s : State} (hmax : s.ibLen < 2 ^ 32) :
    (microRun (microCount k s) (fsmStart k s)).hid.pstate = .idle ∧
      ∀ n, n < microCount k s → (microRun n (fsmStart k s)).hid.pstate ≠ .idle := by
  have hagrees : RunAgrees k { s with hid := { s.hid with sh := List.replicate 16 0 } } (microCount k s) :=
    runAgrees_microCount k List.length_replicate hmax
  have hcourse (n : Nat) := (microRun_sameControl n (u := fsmStart k s)
    (v := fsmStart k { s with hid := { s.hid with sh := List.replicate 16 0 } }) ⟨_, _, rfl⟩).pstate
  refine ⟨(hcourse _).symm.trans hagrees.idle, fun n hn => ?_⟩
  rw [← hcourse n]
  exact hagrees.notBefore n hn

/-- Settles O41: the run of R216 with its count, and the counts as R215 lists them. -/
theorem parserMicroStepCounts : Obligations.ParserMicroStepCounts :=
  ⟨fun k _ hmax => microRun_microCount k hmax, fun k _ h => microCount_of_absent h k, fun _ _ hm =>
    ⟨microCount_eq_ite hm .sptp Iff.rfl, microCount_eq_ite hm .icd Iff.rfl, microCount_eq_ite hm .tm Iff.rfl,
      microCount_eq_ite hm .tk Iff.rfl, microCount_eq_ite hm .obt Iff.rfl, microCount_eq_ite hm .hsi Iff.rfl,
      microCount_eq_ite hm .tc Iff.rfl⟩⟩

end Sys2Proof.Machine
end

section
/-! SUPPORT. What each command reads and what it writes (10_state.md R21 to R31, R43 to R45; 60_exceptions.md R266). A
command is a function of the state that it reads, so two states that agree there have the same effect done to them:
`exec_effect`. The statements about commands in general are read off it. -/

namespace Sys2Proof.Machine

/-! ### What a command reads -/

/-- R106, R105: the commands that read CRC_ACC. -/
def readsAcc : Instr → Bool
  | .crcUpd | .crcRd => true
  | _ => false

/-- R131 to R133: the commands that read OB. -/
def readsOb : Instr → Bool
  | .pkBe | .pkRev32 | .pkBits => true
  | _ => false

/-- The states `s` and `u` agree in everything that the command `i` may read. ERR, STICKY, BUSY, the held frame, RES,
ARG3 and the hidden registers are not among it; `exec_effect` says that this is all. -/
structure SameInputs (i : Instr) (s u : State) : Prop where
  cfg : u.cfg = s.cfg
  arg0 : u.arg0 = s.arg0
  arg1 : u.arg1 = s.arg1
  arg2 : u.arg2 = s.arg2
  ib : u.ib = s.ib
  crcAcc : readsAcc i = true → u.crcAcc = s.crcAcc
  ob : readsOb i = true → u.ob = s.ob

theorem SameInputs.refl (i : Instr) (s : State) : SameInputs i s s :=
  ⟨rfl, rfl, rfl, rfl, rfl, fun _ => rfl, fun _ => rfl⟩

/-- `u` with what the command `i` may read taken from `s`. -/
def State.withInputs (u : State) (i : Instr) (s : State) : State :=
  { u with
    cfg := s.cfg, arg0 := s.arg0, arg1 := s.arg1, arg2 := s.arg2, ib := s.ib,
    crcAcc := if readsAcc i then s.crcAcc else u.crcAcc, ob := if readsOb i then s.ob else u.ob }

theorem SameInputs.withInputs_eq {i : Instr} {s u : State} (h : SameInputs i s u) : u.withInputs i s = u := by
  have hacc : (if readsAcc i then s.crcAcc else u.crcAcc) = u.crcAcc := by
    split
    case isTrue hr => exact (h.crcAcc hr).symm
    case isFalse => rfl
  have hob : (if readsOb i then s.ob else u.ob) = u.ob := by
    split
    case isTrue hr => exact (h.ob hr).symm
    case isFalse => rfl
  rw [State.withInputs, hacc, hob, ← h.cfg, ← h.arg0, ← h.arg1, ← h.arg2, ← h.ib]

theorem withInputs_ob {i : Instr} (hi : readsOb i = true) (s u : State) : (u.withInputs i s).ob = s.ob := if_pos hi

/-! ### What a command does -/

/-- The commands that write RES without clearing everything (R21). -/
def resWriters : List Instr := [.crcRd, .crcRange, .fxBe, .fxRev32, .fxBits]

/-- The commands that write CRC_ACC without clearing everything (R31). -/
def accWriters : List Instr := [.crcClr, .crcUpd]

/-- The PARSE commands (R82). -/
def frameWriters : List Instr := [.parseSptp, .parseIcd, .parseTm, .parseTk, .parseObt, .parseHsi, .parseTc]

/-- The commands that write OB without clearing everything (R28, R44). -/
def obWriters : List Instr := [.obNew, .buildSptp, .buildTk, .pkBe, .pkRev32, .pkBits]

/-- The ways a command `i`, run in `s`, can change the state that it is run in. CRC_WORK is the one hidden register
that a command other than PARSE writes, if it does (R31). -/
inductive CommandEffect (i : Instr) (s : State) : (State → State) → Prop
  | nothing (hi : i = .nop) : CommandEffect i s succeed
  | cleared (hi : i = .clr) :
      CommandEffect i s fun u => succeed { u with
        arg0 := 0, arg1 := 0, arg2 := 0, arg3 := 0, res := 0, crcAcc := s.cfg.crcInit, frame := none, ob := none,
        sticky := false }
  | accumulated (hi : i ∈ accWriters) (a : Half) : CommandEffect i s fun u => succeed { u with crcAcc := a }
  | resulted (hi : i ∈ resWriters) (r : Word) (w : Option Half) :
      CommandEffect i s fun u => succeed { u with
        res := r, hid := { u.hid with crcWork := w.getD u.hid.crcWork } }
  | stored (hi : i ∈ obWriters) (o : Memory) (w : Option Half)
      (ho : bufferOk s.cfg.obMax s.ob → bufferOk s.cfg.obMax (some o)) :
      CommandEffect i s fun u => succeed { u with
        ob := some o, hid := { u.hid with crcWork := w.getD u.hid.crcWork } }
  | committed (k : FrameKind) (hi : i = k.instr) (m : Memory) (hm : s.ib = some m) (hk : k.Accepts m.len) (n : Nat)
      (captured : List Byte) (hcaptured : captured.length ≤ 16) (crc : Half) :
      CommandEffect i s fun u => commitFrame (m.frameAs s.cfg k) (hiddenAfterCommit k n captured crc u.hid) u
  | refused (k : FrameKind) (hi : i = k.instr) {e : Err} (he : e ≠ .ok) : CommandEffect i s (failParse k e)
  | raised {c : Err} (hc : c ≠ .ok) : CommandEffect i s (raiseErr (destinationOf i) c)

/-- The outcomes of `f`, from every state that agrees with `s` on what `i` reads, are one effect's. -/
def HasEffect (i : Instr) (s : State) (f : State → Host.Outcome State Fault Refusal) : Prop :=
  ∃ e, CommandEffect i s e ∧ ∀ u : State, f (u.withInputs i s) = .next (e (u.withInputs i s))

section SharedEnds

variable {i : Instr} {s : State}

theorem extractWith_hasEffect (hi : i ∈ resWriters) (hd : destinationOf i = .result) (off n : Nat)
    (value : List Byte → Nat) : HasEffect i s (extractWith off n value) := by
  obtain hm | ⟨m, hm⟩ := Option.eq_none_or_eq_some s.ib
  · exact ⟨_, .raised (c := .nullInput) nofun,
      fun u => hd ▸ extractWith_of_absent (s := u.withInputs i s) hm off n value⟩
  · by_cases hlen : off + n ≤ m.len
    · exact ⟨_, .resulted hi (BitVec.ofNat 32 (value (m.read off n))) none,
        fun u => extractWith_of_le (s := u.withInputs i s) hm hlen value⟩
    · exact ⟨_, .raised (c := .outOfRange) nofun,
        fun u => hd ▸ extractWith_of_lt (s := u.withInputs i s) hm (Nat.lt_of_not_le hlen) value⟩

/-- R64, R230: a write inside OB leaves it a legal buffer. -/
theorem bufferOk_write {bound : Nat} {m : Memory} {off : Nat} {bytes : List Byte} (h : off + bytes.length ≤ m.len)
    (hm : bufferOk bound (some m)) : bufferOk bound (some (m.write off bytes)) := by
  rintro o ⟨⟩
  obtain ⟨hwf, hlen⟩ := hm m rfl
  exact ⟨Memory.write_wf hwf h, hlen⟩

theorem packWith_hasEffect (hi : i ∈ obWriters) (hd : destinationOf i = .nothing) (hr : readsOb i = true)
    {off n : Nat} {bytes : List Byte → List Byte} (hbytes : ∀ old, (bytes old).length = n) :
    HasEffect i s (packWith off n bytes) := by
  have hob (u : State) := withInputs_ob hr s u
  obtain hm | ⟨m, hm⟩ := Option.eq_none_or_eq_some s.ob
  · exact ⟨_, .raised (c := .outOfRange) nofun, fun u => hd ▸ packWith_of_absent ((hob u).trans hm) _ _ _⟩
  · by_cases hlen : off + n ≤ m.len
    · refine ⟨_, .stored hi (m.write off (bytes (m.read off n))) none fun ho => ?legal,
        fun u => packWith_of_le ((hob u).trans hm) hlen _⟩
      case legal =>
        rw [hm] at ho
        exact bufferOk_write ((hbytes _).symm ▸ hlen) ho
    · exact ⟨_, .raised (c := .outOfRange) nofun,
        fun u => hd ▸ packWith_of_lt ((hob u).trans hm) (Nat.lt_of_not_le hlen) _⟩

/-- R155, R204: a PARSE command commits the frame of a buffer that it accepts, and refuses every other buffer. -/
theorem parse_hasEffect (k : FrameKind) (s : State) : HasEffect k.instr s (exec k.instr) := by
  obtain hm | ⟨m, hm⟩ := Option.eq_none_or_eq_some s.ib
  · exact ⟨_, .refused k rfl (e := .nullInput) nofun, fun u => exec_instr_of_absent (s := u.withInputs _ s) hm k⟩
  · by_cases hk : k.Accepts m.len
    · obtain ⟨n, captured, crc, hcaptured, hexec⟩ := exec_instr_of_accepts s.cfg hk
      exact ⟨_, .committed k rfl m hm hk n captured hcaptured crc, fun u => hexec _ rfl hm⟩
    · obtain ⟨e, he⟩ := exists_lengthError_of_not_accepts s.cfg hk
      exact ⟨_, .refused k rfl (lengthError_ne_ok he), fun u => exec_instr_of_refused (s := u.withInputs _ s) hm he⟩

/-- R86: a command that refuses its operands raises its error in every state that has them. -/
theorem HasEffect.of_raised {f : State → Host.Outcome State Fault Refusal} {c : Err} (hc : c ≠ .ok)
    (h : ∀ u : State, f (u.withInputs i s) = .next (raiseErr (destinationOf i) c (u.withInputs i s))) :
    HasEffect i s f :=
  ⟨_, .raised hc, h⟩

theorem HasEffect.congr {f g : State → Host.Outcome State Fault Refusal} (hg : HasEffect i s g)
    (h : ∀ u : State, f (u.withInputs i s) = g (u.withInputs i s)) : HasEffect i s f := by
  obtain ⟨e, he, hexec⟩ := hg
  exact ⟨e, he, fun u => (h u).trans (hexec u)⟩

end SharedEnds

section EachCommand

variable (s : State)

theorem exec_crcRange_hasEffect : HasEffect .crcRange s (exec .crcRange) := by
  obtain hm | ⟨m, hm⟩ := Option.eq_none_or_eq_some s.ib
  · exact .of_raised (c := .nullInput) nofun fun u => execCrcRange_of_absent (s := u.withInputs _ s) hm
  · by_cases hlen : s.opOff + s.opRangeLen ≤ m.len
    · exact ⟨_, .resulted (by decide) ((crc16 s.cfg (m.read s.opOff s.opRangeLen)).setWidth 32)
        (some (crcFold s.cfg s.cfg.crcInit (m.read s.opOff s.opRangeLen))),
        fun u => execCrcRange_of_le (s := u.withInputs _ s) hm hlen⟩
    · exact .of_raised (c := .outOfRange) nofun
        fun u => execCrcRange_of_lt (s := u.withInputs _ s) hm (Nat.lt_of_not_le hlen)

theorem exec_fxBe_hasEffect : HasEffect .fxBe s (exec .fxBe) := by
  by_cases hn : 1 ≤ s.opN ∧ s.opN ≤ 4
  · exact (extractWith_hasEffect (by decide) rfl s.opOff s.opN be).congr
      fun u => exec_fxBe_of_legal (s := u.withInputs _ s) hn
  · exact .of_raised (c := .illegalCommand) nofun fun u => exec_fxBe_of_illegal (s := u.withInputs _ s) hn

theorem exec_fxBits_hasEffect : HasEffect .fxBits s (exec .fxBits) := by
  by_cases hn : fieldLegal s.opN s.opLsb s.opW = true
  · exact (extractWith_hasEffect (by decide) rfl s.opOff s.opN fun bytes => slice (be bytes) s.opLsb s.opW).congr
      fun u => exec_fxBits_of_legal (s := u.withInputs _ s) hn
  · exact .of_raised (c := .illegalCommand) nofun fun u => exec_fxBits_of_illegal (s := u.withInputs _ s) hn

theorem exec_pkBe_hasEffect : HasEffect .pkBe s (exec .pkBe) := by
  by_cases hn : 1 ≤ s.opN ∧ s.opN ≤ 4
  · exact (packWith_hasEffect (by decide) rfl rfl (off := s.opOff) fun _ => length_beBytes s.arg2.toNat s.opN).congr
      fun u => exec_pkBe_of_legal (s := u.withInputs _ s) hn
  · exact .of_raised (c := .illegalCommand) nofun fun u => exec_pkBe_of_illegal (s := u.withInputs _ s) hn

theorem exec_pkBits_hasEffect : HasEffect .pkBits s (exec .pkBits) := by
  by_cases hn : fieldLegal s.opN s.opLsb s.opW = true
  · exact (packWith_hasEffect (by decide) rfl rfl (off := s.opOff)
      (length_insertedGroup s.opN s.opLsb s.opW s.arg2)).congr fun u => exec_pkBits_of_legal (s := u.withInputs _ s) hn
  · exact .of_raised (c := .illegalCommand) nofun fun u => exec_pkBits_of_illegal (s := u.withInputs _ s) hn

theorem exec_buildSptp_hasEffect : HasEffect .buildSptp s (exec .buildSptp) := by
  obtain hm | ⟨m, hm⟩ := Option.eq_none_or_eq_some s.ib
  · exact .of_raised (c := .nullInput) nofun fun u => execBuildSptp_of_absent (s := u.withInputs _ s) hm
  · by_cases hlen : m.len + 4 ≤ s.cfg.obMax
    · refine ⟨_, .stored (by decide) (builtSptp s m) none fun _ => ?legal,
        fun u => execBuildSptp_of_le (s := u.withInputs _ s) hm hlen⟩
      case legal =>
        rintro o ⟨⟩
        exact ⟨builtSptp_wf s m, (builtSptp_len s m).trans_le hlen⟩
    · exact .of_raised (c := .outOfRange) nofun
        fun u => execBuildSptp_of_lt (s := u.withInputs _ s) hm (Nat.lt_of_not_le hlen)

theorem exec_buildTk_hasEffect : HasEffect .buildTk s (exec .buildTk) := by
  obtain hm | ⟨m, hm⟩ := Option.eq_none_or_eq_some s.ib
  · exact .of_raised (c := .nullInput) nofun fun u => execBuildTk_of_absent (s := u.withInputs _ s) hm
  · by_cases hsize : m.len ≤ 65535
    · by_cases hlen : m.len + 12 ≤ s.cfg.obMax
      · refine ⟨_, .stored (by decide) (builtTk s m)
          (some (crcFold s.cfg s.cfg.crcInit (tkBody s.cfg s.opApid m.toBytes))) fun _ => ?legal,
          fun u => execBuildTk_of_le (s := u.withInputs _ s) hm hsize hlen⟩
        case legal =>
          rintro o ⟨⟩
          exact ⟨builtTk_wf s m, (builtTk_len s m).trans_le hlen⟩
      · exact .of_raised (c := .outOfRange) nofun
          fun u => execBuildTk_of_lt (s := u.withInputs _ s) hm hsize (Nat.lt_of_not_le hlen)
    · exact .of_raised (c := .outOfRange) nofun
        fun u => execBuildTk_of_long (s := u.withInputs _ s) hm (Nat.lt_of_not_le hsize)

theorem exec_obNew_hasEffect : HasEffect .obNew s (exec .obNew) := by
  by_cases hlen : s.arg0.toNat ≤ s.cfg.obMax
  · refine ⟨_, .stored (by decide) (Memory.zeros s.arg0.toNat) none fun _ => ?legal,
      fun u => exec_obNew_of_le (s := u.withInputs _ s) hlen⟩
    case legal =>
      rintro o ⟨⟩
      exact ⟨Memory.zeros_wf _, hlen⟩
  · exact .of_raised (c := .outOfRange) nofun
      fun u => exec_obNew_of_lt (s := u.withInputs _ s) (Nat.lt_of_not_le hlen)

/-- Each command by its own rule. -/
theorem exec_hasEffect (i : Instr) : HasEffect i s (exec i) := by
  cases i with
  | nop => exact ⟨_, .nothing rfl, fun _ => rfl⟩
  | clr => exact ⟨_, .cleared rfl, fun _ => rfl⟩
  | crcClr => exact ⟨_, .accumulated (by decide) s.cfg.crcInit, fun _ => rfl⟩
  | crcUpd => exact ⟨_, .accumulated (by decide) (crcUpdate s.cfg s.crcAcc s.opByte), fun _ => rfl⟩
  | crcRd => exact ⟨_, .resulted (by decide) ((crcFinal s.cfg s.crcAcc).setWidth 32) none, fun _ => rfl⟩
  | crcRange => exact exec_crcRange_hasEffect s
  | fxBe => exact exec_fxBe_hasEffect s
  | fxRev32 => exact extractWith_hasEffect (by decide) rfl s.opOff 4 rev
  | fxBits => exact exec_fxBits_hasEffect s
  | pkBe => exact exec_pkBe_hasEffect s
  | pkRev32 =>
    exact packWith_hasEffect (i := .pkRev32) (by decide) rfl rfl (off := s.opOff)
      fun _ => length_revBytes s.arg2.toNat 4
  | pkBits => exact exec_pkBits_hasEffect s
  | parseSptp => exact parse_hasEffect .sptp s
  | parseIcd => exact parse_hasEffect .icd s
  | parseTm => exact parse_hasEffect .tm s
  | parseTk => exact parse_hasEffect .tk s
  | parseObt => exact parse_hasEffect .obt s
  | parseHsi => exact parse_hasEffect .hsi s
  | parseTc => exact parse_hasEffect .tc s
  | buildSptp => exact exec_buildSptp_hasEffect s
  | buildTk => exact exec_buildTk_hasEffect s
  | obNew => exact exec_obNew_hasEffect s

end EachCommand

/-- What a command does is determined by what it reads. -/
theorem exec_effect (i : Instr) (s : State) :
    ∃ e, CommandEffect i s e ∧ ∀ u, SameInputs i s u → exec i u = .next (e u) := by
  obtain ⟨e, he, hexec⟩ := exec_hasEffect s i
  refine ⟨e, he, fun u hu => ?_⟩
  have h := hexec u
  rwa [hu.withInputs_eq] at h

/-! ### What an effect writes -/

theorem instr_mem_frameWriters (k : FrameKind) : k.instr ∈ .clr :: frameWriters := by
  cases k <;> decide

section Writes

variable {i : Instr} {s : State} {e : State → State} (he : CommandEffect i s e) (u : State)

include he

/-- R43: IB is the environment's, the parameters and the host's own fields are not the block's. -/
theorem CommandEffect.keeps :
    (e u).cfg = u.cfg ∧ (e u).ib = u.ib ∧ (e u).pending = u.pending ∧ (e u).replies = u.replies := by
  cases he with
  | raised hc => simp
  | nothing | cleared | accumulated | resulted | stored | committed | refused => exact ⟨rfl, rfl, rfl, rfl⟩

/-- R21, R251. -/
theorem CommandEffect.args (hi : i ≠ .clr) :
    (e u).arg0 = u.arg0 ∧ (e u).arg1 = u.arg1 ∧ (e u).arg2 = u.arg2 ∧ (e u).arg3 = u.arg3 := by
  cases he with
  | cleared hclr => exact absurd hclr hi
  | raised hc => simp
  | nothing | accumulated | resulted | stored | committed | refused => exact ⟨rfl, rfl, rfl, rfl⟩

/-- R21, R266. -/
theorem CommandEffect.res (hi : i ∉ .clr :: resWriters) : (e u).res = u.res := by
  have hgroup : ∀ j : Instr, destinationOf j = .result → j ∈ .clr :: resWriters := by
    intro j
    cases j <;> decide
  cases he with
  | cleared hclr => exact absurd (hclr ▸ List.mem_cons_self) hi
  | resulted hw => exact absurd (List.mem_cons_of_mem _ hw) hi
  | raised hc =>
    rw [raiseErr_eq]
    exact if_neg (mt (hgroup i) hi)
  | nothing | accumulated | stored | committed | refused => rfl

/-- R31. -/
theorem CommandEffect.crcAcc (hi : i ∉ .clr :: accWriters) : (e u).crcAcc = u.crcAcc := by
  cases he with
  | cleared hclr => exact absurd (hclr ▸ List.mem_cons_self) hi
  | accumulated hw => exact absurd (List.mem_cons_of_mem _ hw) hi
  | raised hc => exact raiseErr_crcAcc ..
  | nothing | resulted | stored | committed | refused => rfl

/-- R27, R30, R33. -/
theorem CommandEffect.frame_busy (hi : i ∉ .clr :: frameWriters) : (e u).frame = u.frame ∧ (e u).busy = u.busy := by
  have hgroup : ∀ j : Instr, destinationOf j = .frameRegs → j ∈ .clr :: frameWriters := by
    intro j
    cases j <;> decide
  cases he with
  | cleared hclr => exact absurd (hclr ▸ List.mem_cons_self) hi
  | committed k hk => exact absurd (hk ▸ instr_mem_frameWriters k) hi
  | refused k hk => exact absurd (hk ▸ instr_mem_frameWriters k) hi
  | raised hc =>
    rw [raiseErr_eq]
    exact ⟨if_neg (mt (hgroup i) hi), rfl⟩
  | nothing | accumulated | resulted | stored => exact ⟨rfl, rfl⟩

/-- R28, R44. -/
theorem CommandEffect.ob (hi : i ∉ .clr :: obWriters) : (e u).ob = u.ob := by
  have hgroup : ∀ j : Instr, destinationOf j = .outputBuffer → j ∈ .clr :: obWriters := by
    intro j
    cases j <;> decide
  cases he with
  | cleared hclr => exact absurd (hclr ▸ List.mem_cons_self) hi
  | stored hw => exact absurd (List.mem_cons_of_mem _ hw) hi
  | raised hc =>
    rw [raiseErr_eq]
    exact if_neg (mt (hgroup i) hi)
  | nothing | accumulated | resulted | committed | refused => rfl

/-- R25, R26: a command other than CLR leaves STICKY as it was if it succeeds, and sets it if it fails. -/
theorem CommandEffect.err_sticky (hi : i ≠ .clr) :
    ((e u).err = .ok ∧ (e u).sticky = u.sticky) ∨ ((e u).err ≠ .ok ∧ (e u).sticky = true) := by
  cases he with
  | cleared hclr => exact absurd hclr hi
  | refused k hk he => exact .inr ⟨he, rfl⟩
  | raised hc => exact .inr ⟨by rwa [raiseErr_err], raiseErr_sticky ..⟩
  | nothing | accumulated | resulted | stored | committed => exact .inl ⟨rfl, rfl⟩

end Writes

theorem exec_inv {i : Instr} {s t : State} (h : exec i s = .next t) : ∃ e, CommandEffect i s e ∧ t = e s := by
  obtain ⟨e, he, hexec⟩ := exec_effect i s
  rw [hexec s (.refl i s)] at h
  exact ⟨e, he, (Host.Outcome.next.inj h).symm⟩

/-- Settles O46: what each effect writes, register by register. -/
theorem commandsWriteOnlyTheirGroup : Obligations.CommandsWriteOnlyTheirGroup := by
  intro i s t h
  obtain ⟨e, he, rfl⟩ := exec_inv h
  obtain ⟨hcfg, hib, hpending, hreplies⟩ := he.keeps s
  refine ⟨hcfg, hib, hpending, hreplies, he.args s, he.res s, he.crcAcc s, he.frame_busy s, he.ob s, fun hclr hok => ?_⟩
  obtain ⟨-, hsticky⟩ | ⟨herr, -⟩ := he.err_sticky s hclr
  · exact hsticky
  · exact absurd hok herr

/-! ### What no command reads -/

/-- R45: what an effect does to the visible state is the same for any hidden registers. -/
theorem CommandEffect.visible_hid {i : Instr} {s : State} {e : State → State} (he : CommandEffect i s e) (u : State)
    (h : Hidden) : (e { u with hid := h }).visible = (e u).visible := by
  cases he with
  | raised hc =>
    generalize destinationOf i = d
    cases d <;> rfl
  | nothing | cleared | accumulated | resulted | stored | committed | refused => rfl

/-- Settles O44: the hidden registers are no input of any command. -/
theorem hiddenRegistersAreNeverRead : Obligations.HiddenRegistersAreNeverRead := by
  intro i s h
  obtain ⟨e, he, hexec⟩ := exec_effect i s
  rw [hexec s (.refl i s), hexec { s with hid := h } ⟨rfl, rfl, rfl, rfl, rfl, fun _ => rfl, fun _ => rfl⟩]
  exact congrArg Host.Outcome.next (he.visible_hid s h)

/-- Settles O45: ERR, STICKY, BUSY and the held frame are no input of any command. -/
theorem statusFieldsAreOutputOnly : Obligations.StatusFieldsAreOutputOnly := by
  intro i s e k b f
  obtain ⟨g, hg, hexec⟩ := exec_effect i s
  refine ⟨_, _, hexec s (.refl i s), hexec { s with err := e, sticky := k, busy := b, frame := f }
    ⟨rfl, rfl, rfl, rfl, rfl, fun _ => rfl, fun _ => rfl⟩, ?_⟩
  cases hg with
  | cleared | committed | refused =>
    exact ⟨rfl, rfl, rfl, rfl, rfl, rfl, rfl, rfl, rfl, rfl, .inl rfl⟩
  | nothing | accumulated | resulted | stored =>
    exact ⟨rfl, rfl, rfl, rfl, rfl, rfl, rfl, rfl, rfl, rfl, .inr ⟨rfl, rfl⟩⟩
  | raised hc =>
    rw [raiseErr_eq, raiseErr_eq]
    refine ⟨rfl, rfl, rfl, rfl, rfl, rfl, rfl, rfl, rfl, rfl, ?frame⟩
    case frame =>
      by_cases hd : destinationOf i = .frameRegs
      · exact .inl ((if_pos hd).trans (if_pos hd).symm)
      · exact .inr ⟨if_neg hd, if_neg hd⟩

/-! ### Every command again -/

/-- R266, R298: an effect done to what it left leaves the same visible state. -/
theorem CommandEffect.visible_twice {i : Instr} {s : State} {e : State → State} (he : CommandEffect i s e) (u : State) :
    (e (e u)).visible = (e u).visible := by
  cases he with
  | raised hc =>
    generalize destinationOf i = d
    cases d <;> rfl
  | nothing | cleared | accumulated | resulted | stored | committed | refused => rfl

/-- A write done twice (R64): OB already holds the bytes. -/
theorem Memory.write_write {m : Memory} (hw : m.wf = true) {off : Nat} {bytes : List Byte}
    (h : off + bytes.length ≤ m.len) : (m.write off bytes).write off bytes = m.write off bytes := by
  have hwf : (m.write off bytes).wf = true := Memory.write_wf hw h
  refine Memory.ext_bytes (Memory.write_wf hwf h) hwf rfl fun a _ => ?_
  rw [Memory.byte_write hwf h]
  split
  case isTrue hin => rw [Memory.byte_write hw h, if_pos hin]
  case isFalse => rfl

/-- A read of what was just written (R62, R64). -/
theorem Memory.read_write {m : Memory} (hw : m.wf = true) {off : Nat} {bytes : List Byte}
    (h : off + bytes.length ≤ m.len) : (m.write off bytes).read off bytes.length = bytes := by
  rw [Memory.read_eq]
  refine List.ext_getElem (by simp) fun i _ hi => ?_
  rw [List.getElem_map, List.getElem_range, Memory.byte_write_inside hw h hi, List.getD_eq_getElem _ _ hi]

/-- R131 to R133: a pack command whose bytes depend only on what the group holds outside them, issued again. -/
theorem packWith_twice {off n : Nat} {bytes : List Byte → List Byte} {s t : State}
    (hob : ∀ m, s.ob = some m → m.wf = true) (hlen : ∀ old, (bytes old).length = n)
    (htwice : ∀ old, old.length = n → bytes (bytes old) = bytes old) (h : packWith off n bytes s = .next t) :
    packWith off n bytes t = .next t := by
  obtain ⟨habsent, rfl⟩ | ⟨m, hm, hout, rfl⟩ | ⟨m, hm, hfit, rfl⟩ := packWith_cases h
  · exact packWith_of_absent (s := raiseErr .nothing .outOfRange s) habsent off n bytes
  · exact packWith_of_lt (s := raiseErr .nothing .outOfRange s) hm hout bytes
  · have hw := hob m hm
    have hfit' : off + (bytes (m.read off n)).length ≤ m.len := (hlen _).symm ▸ hfit
    have hread := Memory.read_write hw hfit'
    rw [hlen] at hread
    rw [packWith_of_le (m := m.write off (bytes (m.read off n))) rfl hfit, hread,
      htwice _ (Memory.length_read m off n), Memory.write_write hw hfit']
    rfl

/-- R298 for the commands that read what they write. -/
theorem exec_pack_twice {i : Instr} (hi : readsOb i = true) {s t : State} (hob : ∀ m, s.ob = some m → m.wf = true)
    (h : exec i s = .next t) : exec i t = .next t := by
  have hclr : i ≠ .clr := by
    rintro rfl
    cases hi
  have hargs : t.arg0 = s.arg0 ∧ t.arg1 = s.arg1 ∧ t.arg2 = s.arg2 ∧ t.arg3 = s.arg3 := by
    obtain ⟨e, he, rfl⟩ := exec_inv h
    exact he.args s hclr
  obtain ⟨harg0, harg1, harg2, -⟩ := hargs
  have hoff : t.opOff = s.opOff := by rw [State.opOff, harg0, State.opOff]
  have hn : t.opN = s.opN := by rw [State.opN, harg1, State.opN]
  have hlsb : t.opLsb = s.opLsb := by rw [State.opLsb, harg1, State.opLsb]
  have hw : t.opW = s.opW := by rw [State.opW, harg1, State.opW]
  cases i with
  | pkBe =>
    by_cases hlegal : 1 ≤ s.opN ∧ s.opN ≤ 4
    · rw [exec_pkBe_of_legal hlegal] at h
      rw [exec_pkBe_of_legal (hn.symm ▸ hlegal), hoff, hn, harg2]
      exact packWith_twice hob (fun _ => length_beBytes _ _) (fun _ _ => rfl) h
    · rw [exec_pkBe_of_illegal hlegal] at h
      cases h
      exact exec_pkBe_of_illegal (s := raiseErr .nothing .illegalCommand s) hlegal
  | pkRev32 =>
    rw [exec_pkRev32] at h ⊢
    rw [hoff, harg2]
    exact packWith_twice hob (fun _ => length_revBytes _ _) (fun _ _ => rfl) h
  | pkBits =>
    by_cases hlegal : fieldLegal s.opN s.opLsb s.opW = true
    · obtain ⟨-, hn4, -, -, hfit⟩ := (fieldLegal_iff _ _ _).mp hlegal
      rw [exec_pkBits_of_legal hlegal] at h
      rw [exec_pkBits_of_legal (by rwa [hn, hlsb, hw]), hoff, hn, hlsb, hw, harg2]
      exact packWith_twice hob (length_insertedGroup _ _ _ _)
        (fun _ hold => insertedGroup_insertedGroup _ hold hn4 hfit) h
    · rw [exec_pkBits_of_illegal hlegal] at h
      cases h
      exact exec_pkBits_of_illegal (s := raiseErr .nothing .illegalCommand s) hlegal
  | _ => cases hi

/-- R298 for the commands that do not: what they read is as it was, so they have the same effect again. -/
theorem exec_twice_of_not_readsOb {i : Instr} (hupd : i ≠ .crcUpd) (hob : readsOb i = false) {s t : State}
    (h : exec i s = .next t) : ∃ u, exec i t = .next u ∧ u.visible = t.visible := by
  by_cases hclr : i = .clr
  · subst hclr
    rw [exec_clr] at h
    cases h
    exact ⟨_, rfl, rfl⟩
  · obtain ⟨e, he, hexec⟩ := exec_effect i s
    rw [hexec s (.refl i s)] at h
    cases h
    obtain ⟨hcfg, hib, -, -⟩ := he.keeps s
    obtain ⟨harg0, harg1, harg2, -⟩ := he.args s hclr
    have hacc : readsAcc i = true → i ∉ .clr :: accWriters := by
      intro hr
      cases i with
      | crcRd => decide
      | crcUpd => exact absurd rfl hupd
      | _ => cases hr
    exact ⟨_, hexec (e s) ⟨hcfg, harg0, harg1, harg2, hib, fun hr => he.crcAcc s (hacc hr),
      fun hr => absurd (hob.symm.trans hr) Bool.false_ne_true⟩, he.visible_twice s⟩

/-- Settles O51: the pack commands write what they read back unchanged, and no other command reads what it writes. -/
theorem commandsAreIdempotent : Obligations.CommandsAreIdempotent := by
  intro i s t hupd hob h
  cases hr : readsOb i with
  | true => exact ⟨t, exec_pack_twice hr hob h, rfl⟩
  | false => exact exec_twice_of_not_readsOb hupd hr h

end Sys2Proof.Machine
end

section
/-! SUPPORT. What a step can do (00_scope.md R14; 10_state.md R47), and what every step keeps: the legal states
(10_state.md R24 to R49) and the tale that STICKY tells of a run (60_exceptions.md R274). -/

namespace Sys2Proof.Machine

/-! ### Every command and every legal host action completes -/

theorem exists_exec_eq_next (i : Instr) (s : State) : ∃ t, exec i s = .next t := by
  obtain ⟨e, -, hexec⟩ := exec_effect i s
  exact ⟨_, hexec s (.refl i s)⟩

/-- What a write to a register does: it issues a command, or is taken for a reserved opcode, or at most changes an
operand. CLR is issued by its own opcode alone. -/
theorem hostWrite_cases (offset : Nat) (v : Word) (s : State) :
    (∃ i, (i = .clr → clearsSticky (.wr offset v) = true) ∧ hostWrite offset v s = exec i s) ∨
    hostWrite offset v s = execReserved s ∨
    ∃ a0 a1 a2 a3, hostWrite offset v s = .next { s with arg0 := a0, arg1 := a1, arg2 := a2, arg3 := a3 } := by
  by_cases hw : offset ∈ writableRegs.map Reg.offset
  · obtain ⟨r, hr, rfl⟩ := List.mem_map.mp hw
    rw [hostWrite_offset]
    cases r with
    | cmd =>
      cases hd : decodeOpcode (cmdOpcode v) with
      | ok i =>
        have hissue : writeReg .cmd v s = exec i s := by rw [writeReg, issue, decode_cons_of_ok hd]
        refine .inl ⟨i, ?clr, hissue⟩
        case clr =>
          rintro rfl
          have hopcode : v.extractLsb' 0 8 = 0x01#8 := decodeOpcode_eq_ok_iff.mp hd
          exact Bool.and_eq_true_iff.mpr ⟨rfl, beq_iff_eq.mpr hopcode⟩
      | error e => exact .inr (.inl (issue_of_decode_error (decode_cons_of_error hd []) s))
    | arg0 | arg1 | arg2 | arg3 => exact .inr (.inr ⟨_, _, _, _, rfl⟩)
    | _ => exact absurd hr (by decide)
  · exact .inr (.inr ⟨s.arg0, s.arg1, s.arg2, s.arg3, hostWrite_ignored hw v s⟩)

theorem exists_performAction_eq_next {a : HostAction} {s : State}
    (h : ∀ bytes, a = .load bytes → bytes.length ≤ s.cfg.ibMax) : ∃ t, performAction a s = .next t := by
  cases a with
  | load bytes => exact ⟨_, hostLoad_of_le (h bytes rfl)⟩
  | wr offset v =>
    obtain ⟨i, -, hexec⟩ | hreserved | ⟨_, _, _, _, hargs⟩ := hostWrite_cases offset v s
    · obtain ⟨t, ht⟩ := exists_exec_eq_next i s
      exact ⟨t, hexec.trans ht⟩
    · exact ⟨_, hreserved⟩
    · exact ⟨_, hargs⟩
  | loadAbsent | rd | rdob | reset => exact ⟨_, rfl⟩

theorem step_of_pending_nil {s : State} (h : s.pending = []) : step s = .next s := by
  unfold step stepAction
  rw [h]

/-- Settles O49: no command stops, and of the host's actions only a load that is too long does. -/
theorem everyCommandCompletes : Obligations.EveryCommandCompletes := by
  refine ⟨exists_exec_eq_next, fun s hload => ?step⟩
  case step =>
    by_cases hp : s.pending = []
    · exact ⟨s, step_of_pending_nil hp⟩
    · obtain ⟨a, rest, hp⟩ := List.exists_cons_of_ne_nil hp
      rw [step_of_pending hp]
      exact exists_performAction_eq_next fun bytes ha => hload bytes rest (ha ▸ hp)

/-! ### What a step can do -/

/-- The states that the host action `a`, performed in `s`, can leave. -/
inductive ActionLeaves (a : HostAction) (s : State) : State → Prop
  | command (i : Instr) (hi : i = .clr → clearsSticky a = true) {e : State → State} (he : CommandEffect i s e) :
      ActionLeaves a s (e s)
  | reserved : ActionLeaves a s (raiseErr .nothing .illegalCommand s)
  | reset (ha : clearsSticky a = true) : ActionLeaves a s (hostReset s)
  | loaded (m : Option Memory) (hm : bufferOk s.cfg.ibMax m) : ActionLeaves a s { s with ib := m, frame := none }
  | operands (a0 a1 a2 a3 : Word) : ActionLeaves a s { s with arg0 := a0, arg1 := a1, arg2 := a2, arg3 := a3 }
  | told (replies : List HostReply) : ActionLeaves a s { s with replies := replies }

theorem bufferOk_none (bound : Nat) : bufferOk bound none := nofun

theorem bufferOk_ofBytes {bound : Nat} {bytes : List Byte} (h : bytes.length ≤ bound) :
    bufferOk bound (some (Memory.ofBytes bytes)) := by
  rintro m ⟨⟩
  exact ⟨Memory.ofBytes_wf bytes, h⟩

theorem performAction_leaves {a : HostAction} {s t : State} (h : performAction a s = .next t) : ActionLeaves a s t := by
  cases a with
  | load bytes =>
    by_cases hlen : bytes.length ≤ s.cfg.ibMax
    · rw [performAction, hostLoad_of_le hlen] at h
      cases h
      exact .loaded _ (bufferOk_ofBytes hlen)
    · rw [performAction, hostLoad_of_lt (Nat.lt_of_not_le hlen)] at h
      cases h
  | loadAbsent =>
    cases h
    exact .loaded none (bufferOk_none _)
  | wr offset v =>
    rw [performAction] at h
    obtain ⟨i, hi, hexec⟩ | hreserved | ⟨_, _, _, _, hargs⟩ := hostWrite_cases offset v s
    · obtain ⟨e, he, rfl⟩ := exec_inv (hexec.symm.trans h)
      exact .command i hi he
    · rw [hreserved] at h
      cases h
      exact .reserved
    · rw [hargs] at h
      cases h
      exact .operands ..
  | rd | rdob =>
    cases h
    exact .told _
  | reset =>
    cases h
    exact .reset rfl

/-- A step is the host's next action, or nothing. -/
theorem step_inv {s t : State} (h : step s = .next t) :
    (s.pending = [] ∧ t = s) ∨ ∃ a rest, s.pending = a :: rest ∧ ActionLeaves a { s with pending := rest } t := by
  by_cases hp : s.pending = []
  · rw [step_of_pending_nil hp] at h
    exact .inl ⟨hp, (Host.Outcome.next.inj h).symm⟩
  · obtain ⟨a, rest, hp⟩ := List.exists_cons_of_ne_nil hp
    rw [step_of_pending hp] at h
    exact .inr ⟨a, rest, hp, performAction_leaves h⟩

theorem ActionLeaves.pending {a : HostAction} {s t : State} (h : ActionLeaves a s t) : t.pending = s.pending := by
  cases h with
  | command i hi he =>
    obtain ⟨-, -, hpending, -⟩ := he.keeps s
    exact hpending
  | reserved | reset | loaded | operands | told => rfl

/-! ### STICKY -/

/-- R26: what an action that does not clear STICKY leaves in ERR and STICKY: both as they were, or the end of a
command. -/
theorem ActionLeaves.err_sticky {a : HostAction} {s t : State} (h : ActionLeaves a s t) (ha : clearsSticky a = false) :
    (t.err = s.err ∧ t.sticky = s.sticky) ∨ (t.err = .ok ∧ t.sticky = s.sticky) ∨ (t.err ≠ .ok ∧ t.sticky = true) := by
  have hnot : clearsSticky a ≠ true := by rw [ha]; exact Bool.false_ne_true
  cases h with
  | command i hi he => exact .inr (he.err_sticky s (mt hi hnot))
  | reserved => exact .inr (.inr ⟨nofun, rfl⟩)
  | reset hreset => exact absurd hreset hnot
  | loaded | operands | told => exact .inl ⟨rfl, rfl⟩

/-- R26, one step of a run none of whose actions clears STICKY: a set STICKY stays set, and from ERR = 0 and STICKY = 0
the two are 0 again together. -/
theorem step_err_sticky {s t : State} {a : HostAction} {rest : List HostAction} (hp : s.pending = a :: rest)
    (ha : clearsSticky a = false) (h : step s = .next t) :
    t.pending = rest ∧ (s.sticky = true → t.sticky = true) ∧
      (s.err = .ok → s.sticky = false → (t.err = .ok ↔ t.sticky = false)) := by
  obtain ⟨hnil, -⟩ | ⟨b, tail, hcons, hleaves⟩ := step_inv h
  · rw [hp] at hnil
    cases hnil
  · rw [hp] at hcons
    cases hcons
    refine ⟨hleaves.pending, ?_⟩
    obtain ⟨herr, hsticky⟩ | ⟨herr, hsticky⟩ | ⟨herr, hsticky⟩ := hleaves.err_sticky ha
    · exact ⟨hsticky.trans, fun hok hclear => ⟨fun _ => hsticky.trans hclear, fun _ => herr.trans hok⟩⟩
    · exact ⟨hsticky.trans, fun _ hclear => ⟨fun _ => hsticky.trans hclear, fun _ => herr⟩⟩
    · exact ⟨fun _ => hsticky, fun _ _ =>
        ⟨fun hok => absurd hok herr, fun hclear => absurd (hsticky.symm.trans hclear) nofun⟩⟩

/-- R26 along a run: STICKY, once set, is set at the end. -/
theorem run_keeps_sticky (actions : List HostAction) {s t : State} (hp : s.pending = actions)
    (hclear : ∀ a ∈ actions, clearsSticky a = false) (hsticky : s.sticky = true)
    (h : Host.Core.run Sys2Proof.core actions.length s = .next t) : t.sticky = true := by
  induction actions generalizing s with
  | nil =>
    cases h
    exact hsticky
  | cons a rest ih =>
    obtain ⟨u, hstep, hrun⟩ := run_inv rest.length h
    obtain ⟨hpending, hkeeps, -⟩ := step_err_sticky hp (hclear a List.mem_cons_self) hstep
    exact ih hpending (fun b hb => hclear b (List.mem_cons_of_mem a hb)) (hkeeps hsticky) hrun

/-- R274 along a run, by induction on the actions that are still to come. -/
theorem run_sticky_iff (actions : List HostAction) {s t : State} (hp : s.pending = actions)
    (hclear : ∀ a ∈ actions, clearsSticky a = false) (hok : s.err = .ok) (hsticky : s.sticky = false)
    (h : Host.Core.run Sys2Proof.core actions.length s = .next t) :
    t.sticky = false ↔
      ∀ n, n ≤ actions.length → ∃ u, Host.Core.run Sys2Proof.core n s = .next u ∧ u.err = .ok := by
  induction actions generalizing s with
  | nil =>
    cases h
    refine ⟨fun _ n hn => ?_, fun _ => hsticky⟩
    obtain rfl : n = 0 := Nat.le_zero.mp hn
    exact ⟨_, rfl, hok⟩
  | cons a rest ih =>
    have hrest : ∀ b ∈ rest, clearsSticky b = false := fun b hb => hclear b (List.mem_cons_of_mem a hb)
    obtain ⟨u, hstep, hrun⟩ := run_inv rest.length h
    obtain ⟨hpending, -, hiff⟩ := step_err_sticky hp (hclear a List.mem_cons_self) hstep
    have herr := hiff hok hsticky
    constructor
    · intro ht n hn
      have hu : u.sticky = false := by
        by_contra hset
        have hkept := run_keeps_sticky rest hpending hrest (Bool.not_eq_false _ ▸ hset) hrun
        rw [ht] at hkept
        cases hkept
      cases n with
      | zero => exact ⟨s, rfl, hok⟩
      | succ n =>
        rw [run_step n hstep]
        exact (ih hpending hrest (herr.mpr hu) hu hrun).mp ht n (Nat.le_of_succ_le_succ hn)
    · intro hall
      have hu : u.err = .ok := by
        obtain ⟨v, hv, hvok⟩ := hall 1 (by simp)
        rw [run_step 0 hstep] at hv
        cases hv
        exact hvok
      refine (ih hpending hrest hu (herr.mp hu) hrun).mpr fun n hn => ?_
      rw [← run_step n hstep]
      exact hall (n + 1) (Nat.succ_le_succ hn)

/-- Settles O50. -/
theorem stickyTellsWhetherACommandFailed : Obligations.StickyTellsWhetherACommandFailed :=
  fun s _ hok hsticky hclear hrun => run_sticky_iff s.pending rfl hclear hok hsticky hrun

/-! ### The held frame -/

/-- R27: a held frame is current when it is the frame that the present buffer holds as its kind. -/
theorem frameIsCurrent_iff (s : State) :
    s.frameIsCurrent ↔
      ∀ f, s.frame = some f → ∃ m, s.ib = some m ∧ f.kind.Accepts m.len ∧ f = m.frameAs s.cfg f.kind := by
  refine forall_congr' fun f => imp_congr_right fun _ => ⟨?inv, ?run⟩
  case inv =>
    rintro ⟨t, hexec, hok, hframe⟩
    obtain ⟨m, hm, haccept, hparsed⟩ := parsed_inv hexec hok
    exact ⟨m, hm, haccept, Option.some.inj (hframe.symm.trans hparsed)⟩
  case run =>
    rintro ⟨m, hm, haccept, hf⟩
    obtain ⟨n, captured, crc, -, hexec⟩ := exec_instr_of_accepts s.cfg haccept
    exact ⟨_, hexec s rfl hm, rfl, congrArg some hf.symm⟩

theorem frameIsCurrent_of_none {s : State} (h : s.frame = none) : s.frameIsCurrent := by
  intro f hf
  rw [h] at hf
  cases hf

/-- The registers that a held frame is compared with are the buffer and the parameters. -/
theorem frameIsCurrent_congr {s t : State} (hframe : t.frame = s.frame) (hib : t.ib = s.ib) (hcfg : t.cfg = s.cfg)
    (h : s.frameIsCurrent) : t.frameIsCurrent := by
  rw [frameIsCurrent_iff] at h ⊢
  rw [hframe, hib, hcfg]
  exact h

/-! ### The legal states -/

/-- The operands and the host's own fields are in no clause of legality. -/
theorem State.Legal.of_host {s : State} (h : s.Legal) (a0 a1 a2 a3 : Word) (pending : List HostAction)
    (replies : List HostReply) :
    State.Legal { s with
      arg0 := a0, arg1 := a1, arg2 := a2, arg3 := a3, pending := pending, replies := replies } :=
  ⟨h.cfg, h.ib, h.ob, h.sticky, frameIsCurrent_congr (s := s) rfl rfl rfl h.frame, h.idle, h.busy, h.sh⟩

theorem resetWith_legal {c : Config} (h : c.wf = true) : (State.resetWith c).Legal :=
  ⟨h, bufferOk_none _, bufferOk_none _, fun herr => absurd rfl herr, frameIsCurrent_of_none rfl, rfl, rfl, rfl⟩

/-- Settles O38. -/
theorem resetStateIsLegal : Obligations.ResetStateIsLegal :=
  ⟨resetWith_legal (by decide), fun _ => resetWith_legal⟩

/-- R201: SH keeps its sixteen bytes whatever is captured in it. -/
theorem length_captureSlots {captured sh : List Byte} (hcaptured : captured.length ≤ 16) (hsh : sh.length = 16) :
    (captureSlots captured sh).length = 16 := by
  rw [captureSlots, List.length_append, List.length_drop]
  omega

/-- R266: what an error leaves of OB is the legal buffer that it found, or none. -/
theorem bufferOk_raiseErr {bound : Nat} {s : State} (h : bufferOk bound s.ob) (d : DestGroup) (c : Err) :
    bufferOk bound (raiseErr d c s).ob := by
  rw [raiseErr_eq]
  show bufferOk bound (if d = .outputBuffer then none else s.ob)
  split
  · exact bufferOk_none bound
  · exact h

theorem frameIsCurrent_raiseErr {s : State} (h : s.frameIsCurrent) (d : DestGroup) (c : Err) :
    (raiseErr d c s).frameIsCurrent := by
  by_cases hd : d = .frameRegs
  · subst hd
    exact frameIsCurrent_of_none rfl
  · exact frameIsCurrent_congr (by rw [raiseErr_eq]; exact if_neg hd) (raiseErr_ib ..) (raiseErr_cfg ..) h

/-- An error raised in a legal state leaves a legal state. -/
theorem State.Legal.raiseErr {s : State} (h : s.Legal) (d : DestGroup) (c : Err) : (raiseErr d c s).Legal where
  cfg := by rw [raiseErr_cfg]; exact h.cfg
  ib := by rw [raiseErr_cfg, raiseErr_ib]; exact h.ib
  ob := by rw [raiseErr_cfg]; exact bufferOk_raiseErr h.ob d c
  sticky _ := raiseErr_sticky ..
  frame := frameIsCurrent_raiseErr h.frame d c
  idle := by rw [raiseErr_hid]; exact h.idle
  busy := by rw [raiseErr_busy]; exact h.busy
  sh := by rw [raiseErr_hid]; exact h.sh

/-- Every command, run in a legal state, leaves a legal state. -/
theorem CommandEffect.legal {i : Instr} {s : State} {e : State → State} (he : CommandEffect i s e) (h : s.Legal) :
    (e s).Legal := by
  have hok {t : State} (ht : t.err = .ok) : t.err ≠ .ok → t.sticky = true := fun herr => absurd ht herr
  have hframe {t : State} := frameIsCurrent_congr (s := s) (t := t)
  cases he with
  | nothing => exact ⟨h.cfg, h.ib, h.ob, hok rfl, hframe rfl rfl rfl h.frame, h.idle, h.busy, h.sh⟩
  | cleared => exact ⟨h.cfg, h.ib, bufferOk_none _, hok rfl, frameIsCurrent_of_none rfl, h.idle, h.busy, h.sh⟩
  | accumulated => exact ⟨h.cfg, h.ib, h.ob, hok rfl, hframe rfl rfl rfl h.frame, h.idle, h.busy, h.sh⟩
  | resulted => exact ⟨h.cfg, h.ib, h.ob, hok rfl, hframe rfl rfl rfl h.frame, h.idle, h.busy, h.sh⟩
  | stored _ o w ho => exact ⟨h.cfg, h.ib, ho h.ob, hok rfl, hframe rfl rfl rfl h.frame, h.idle, h.busy, h.sh⟩
  | committed k _ m hm hk n captured hcaptured crc =>
    refine ⟨h.cfg, h.ib, h.ob, hok rfl, ?frame, rfl, rfl, length_captureSlots hcaptured h.sh⟩
    case frame =>
      rw [frameIsCurrent_iff]
      rintro f ⟨⟩
      rw [frameAs_kind]
      exact ⟨m, hm, hk, rfl⟩
  | refused => exact ⟨h.cfg, h.ib, h.ob, fun _ => rfl, frameIsCurrent_of_none rfl, rfl, rfl, h.sh⟩
  | raised => exact h.raiseErr _ _

/-- Every host action, performed in a legal state, leaves a legal state. -/
theorem ActionLeaves.legal {a : HostAction} {s t : State} (hleaves : ActionLeaves a s t) (h : s.Legal) : t.Legal := by
  cases hleaves with
  | command i _ he => exact he.legal h
  | reserved => exact h.raiseErr _ _
  | reset => exact (resetWith_legal h.cfg).of_host 0 0 0 0 s.pending s.replies
  | loaded m hm => exact ⟨h.cfg, hm, h.ob, h.sticky, frameIsCurrent_of_none rfl, h.idle, h.busy, h.sh⟩
  | operands a0 a1 a2 a3 => exact h.of_host a0 a1 a2 a3 s.pending s.replies
  | told replies => exact h.of_host s.arg0 s.arg1 s.arg2 s.arg3 s.pending replies

/-- Settles O37: an idle step changes nothing, and every other step is a host action. -/
theorem everyStepKeepsLegal : Obligations.EveryStepKeepsLegal := by
  intro s t h hstep
  obtain ⟨-, rfl⟩ | ⟨a, rest, -, hleaves⟩ := step_inv hstep
  · exact h
  · exact hleaves.legal (h.of_host s.arg0 s.arg1 s.arg2 s.arg3 rest s.replies)

/-! ### The views of a held frame -/

/-- R40: a view from an offset to the end of the buffer ends where the buffer does. -/
theorem viewFrom_end {off len : Nat} (hoff : off ≤ len) (hmax : len < 2 ^ 32) :
    (viewFrom off len).off.toNat + (viewFrom off len).len.toNat = len := by
  have hoffset : (BitVec.ofNat 32 off).toNat = off := Nat.mod_eq_of_lt (by omega)
  have hlength : (BitVec.ofNat 32 (len - off)).toNat = len - off := Nat.mod_eq_of_lt (by omega)
  rw [viewFrom, hoffset, hlength, Nat.add_sub_cancel' hoff]

/-- R42: PAY0 and PAY1 of each kind. -/
theorem frameAs_views_le {m : Memory} {k : FrameKind} (c : Config) (h : k.Accepts m.len) (hmax : m.len < 2 ^ 32) :
    (m.frameAs c k).pay0.off.toNat + (m.frameAs c k).pay0.len.toNat ≤ m.len ∧
      (m.frameAs c k).pay1.off.toNat + (m.frameAs c k).pay1.len.toNat ≤ m.len := by
  have view {off : Nat} (hoff : off ≤ m.len) := (viewFrom_end hoff hmax).le
  cases k with
  | sptp => exact ⟨view h, Nat.zero_le _⟩
  | hsi => exact ⟨view h, Nat.zero_le _⟩
  | icd =>
    have hlen : 10 ≤ m.len := h
    exact ⟨view (by omega), view hlen⟩
  | tm | tk =>
    have hlen : 16 ≤ m.len := h
    exact ⟨view (by omega), view (by omega)⟩
  | obt =>
    have hlen : m.len = 16 := h
    exact ⟨hlen.ge, hlen.ge⟩
  | tc =>
    have hlen : m.len = 1 := h
    exact ⟨hlen.ge, Nat.zero_le _⟩

/-- Settles O39: the held frame is the present buffer's, whose length a legal binding keeps below 2^32. -/
theorem heldViewsLieInsideBuffer : Obligations.HeldViewsLieInsideBuffer := by
  intro s f h hf
  obtain ⟨m, hm, haccept, hframe⟩ := (frameIsCurrent_iff s).mp h.frame f hf
  obtain ⟨-, hlen⟩ := h.ib m hm
  rw [hframe]
  exact ⟨m, hm, frameAs_views_le s.cfg haccept (Nat.lt_of_le_of_lt hlen (cfg_ibMax_lt h.cfg))⟩

end Sys2Proof.Machine
end

section
/-! SUPPORT. The pseudo-commands of 30_encoding.md R90 as runs: the operands that a line of the host program hands to
its command, the answer that the command gives in RES, and that answer as the field of the buffer that PARSE reads. -/

namespace Sys2Proof.Machine

/-! ### Field descriptors -/

section Descriptor

variable {n lsb w : Nat} (hn : n < 2 ^ 3) (hlsb : lsb < 2 ^ 5) (hw : w < 2 ^ 6)

include hn hlsb hw

theorem descriptor_toNat : (descriptor n lsb w).toNat = n + lsb * 2 ^ 8 + w * 2 ^ 16 := by
  rw [descriptor, BitVec.toNat_ofNat]
  omega

/-- R85: a descriptor holds each of its numbers in the bits that the command reads. -/
theorem descriptor_fields :
    ((descriptor n lsb w).extractLsb' 0 3).toNat = n ∧ ((descriptor n lsb w).extractLsb' 8 5).toNat = lsb ∧
      ((descriptor n lsb w).extractLsb' 16 6).toNat = w := by
  simp only [BitVec.extractLsb'_toNat, Nat.shiftRight_eq_div_pow, descriptor_toNat hn hlsb hw]
  omega

end Descriptor

/-! ### Lines that read a field -/

/-- The line, run from `s`, ends without an error and with `v` in RES. -/
def Line.Answers (line : Line) (s : State) (v : Word) : Prop :=
  ∃ t, Host.Core.run Sys2Proof.core line.actions.length s = .next t ∧ t.err = .ok ∧ t.res = v

section Answers

variable {s : State} {m : Memory} {off v : Word} (hm : s.ib = some m)

include hm

/-- R129 for a line `fx.bits off, n, lsb, w`. -/
theorem answers_fxBits {n lsb w : Nat} (hlegal : fieldLegal n lsb w = true) (hfit : off.toNat + n ≤ m.len)
    (hv : BitVec.ofNat 32 (slice (be (m.read off.toNat n)) lsb w) = v)
    (hp : s.pending = (Line.fxBits off n lsb w).actions) : (Line.fxBits off n lsb w).Answers s v := by
  have hbounds := (fieldLegal_iff n lsb w).mp hlegal
  obtain ⟨hopN, hopLsb, hopW⟩ := descriptor_fields (n := n) (lsb := lsb) (w := w) (by omega) (by omega) (by omega)
  have hexec : exec .fxBits { s with pending := [], arg0 := off, arg1 := descriptor n lsb w } =
      .next (succeed { s with pending := [], arg0 := off, arg1 := descriptor n lsb w, res := v }) := by
    have hN : State.opN { s with pending := [], arg0 := off, arg1 := descriptor n lsb w } = n := hopN
    have hLsb : State.opLsb { s with pending := [], arg0 := off, arg1 := descriptor n lsb w } = lsb := hopLsb
    have hW : State.opW { s with pending := [], arg0 := off, arg1 := descriptor n lsb w } = w := hopW
    rw [exec_fxBits_of_legal (by rwa [hN, hLsb, hW]), hN, hLsb, hW, ← hv]
    exact extractWith_of_le (s := { s with pending := [], arg0 := off, arg1 := descriptor n lsb w }) hm hfit _
  exact ⟨_, run_twoOperands hp rfl hexec, rfl, rfl⟩

/-- R127 for a line `fx.be off, n`. -/
theorem answers_fxBe {n : Nat} (hlegal : 1 ≤ n ∧ n ≤ 4) (hfit : off.toNat + n ≤ m.len)
    (hv : BitVec.ofNat 32 (be (m.read off.toNat n)) = v) (hp : s.pending = (Line.fxBe off n).actions) :
    (Line.fxBe off n).Answers s v := by
  obtain ⟨hopN, -, -⟩ := descriptor_fields (n := n) (lsb := 0) (w := 0) (by omega) (by decide) (by decide)
  have hexec : exec .fxBe { s with pending := [], arg0 := off, arg1 := descriptor n 0 0 } =
      .next (succeed { s with pending := [], arg0 := off, arg1 := descriptor n 0 0, res := v }) := by
    have hN : State.opN { s with pending := [], arg0 := off, arg1 := descriptor n 0 0 } = n := hopN
    rw [exec_fxBe_of_legal (by rwa [hN]), hN, ← hv]
    exact extractWith_of_le (s := { s with pending := [], arg0 := off, arg1 := descriptor n 0 0 }) hm hfit _
  exact ⟨_, run_twoOperands hp rfl hexec, rfl, rfl⟩

/-- R128 for a line `fx.rev32 off`. -/
theorem answers_fxRev32 (hfit : off.toNat + 4 ≤ m.len) (hv : BitVec.ofNat 32 (rev (m.read off.toNat 4)) = v)
    (hp : s.pending = (Line.fxRev32 off).actions) : (Line.fxRev32 off).Answers s v := by
  have harg0 : step s = .next { s with pending := [issueOf .fxRev32], arg0 := off } := step_wr_arg0 hp
  have hcmd : step { s with pending := [issueOf .fxRev32], arg0 := off } =
      .next (succeed { s with pending := [], arg0 := off, res := v }) := by
    rw [← hv]
    exact (step_wr_cmd_of_decode (i := .fxRev32) rfl rfl).trans
      (extractWith_of_le (s := { s with pending := [], arg0 := off }) hm hfit rev)
  exact ⟨_, (run_step 1 harg0).trans (run_step 0 hcmd), rfl, rfl⟩

end Answers

/-! ### The fields that PARSE reads -/

/-- R122: a field in a 32-bit register is the field zero-extended. -/
theorem ofNat_slice_eq_setWidth (v lsb : Nat) {w : Nat} (hw : w ≤ 32) :
    BitVec.ofNat 32 (slice v lsb w) = (BitVec.ofNat w (slice v lsb w)).setWidth 32 := by
  apply BitVec.eq_of_toNat_eq
  rw [BitVec.toNat_setWidth_of_le hw, BitVec.toNat_ofNat, BitVec.toNat_ofNat, Nat.mod_eq_of_lt (slice_lt v lsb w),
    Nat.mod_eq_of_lt (Nat.lt_of_lt_of_le (slice_lt v lsb w) (Nat.pow_le_pow_right (by decide) hw))]

section Fields

variable (m : Memory) (off : Nat)

theorem be_read_one : be (m.read off 1) = (m.byte off).toNat := by
  rw [m.read_succ off 0, Memory.read_zero]
  simp [be]

theorem be_read_two : be (m.read off 2) = group16 (m.byte off) (m.byte (off + 1)) := by
  rw [m.read_succ off 1, m.read_succ (off + 1) 0, Memory.read_zero]
  rfl

/-- A field inside one byte. -/
theorem field_of_byte (lsb : Nat) {w : Nat} (hw : w ≤ 32) :
    BitVec.ofNat 32 (slice (be (m.read off 1)) lsb w) = ((m.byte off).extractLsb' lsb w).setWidth 32 := by
  rw [ofNat_slice_eq_setWidth _ _ hw, be_read_one, ofNat_slice_toNat]

/-- A field inside the first byte of a two-byte group. -/
theorem field_of_group_high (lsb : Nat) {w : Nat} (hw : w ≤ 32) :
    BitVec.ofNat 32 (slice (be (m.read off 2)) (lsb + 8) w) = ((m.byte off).extractLsb' lsb w).setWidth 32 := by
  rw [ofNat_slice_eq_setWidth _ _ hw, be_read_two, ofNat_slice_group16_high]

/-- A field that is the low `k + 8` bits of a two-byte group. -/
theorem field_of_group_low {k : Nat} (hk : k ≤ 8) :
    BitVec.ofNat 32 (slice (be (m.read off 2)) 0 (k + 8)) =
      ((m.byte off).extractLsb' 0 k ++ m.byte (off + 1)).setWidth 32 := by
  rw [ofNat_slice_eq_setWidth _ _ (by omega), be_read_two, ofNat_slice_group16_low _ _ hk]

/-- A two-byte field. -/
theorem field_of_group : BitVec.ofNat 32 (be (m.read off 2)) = (m.byte off ++ m.byte (off + 1)).setWidth 32 := by
  rw [be_read_two, group16_eq_toNat, BitVec.ofNat_toNat]

end Fields

/-- Settles O56: each line's field is the one that R153, R190 and R177 name. -/
theorem pseudoCommandsReadParsedFields : Obligations.PseudoCommandsReadParsedFields := by
  refine ⟨fun s m line v hm hlen hline hp => ?icd, fun s m line v hm hlen hline hp => ?hsi, fun s m hm hlen hp => ?obt⟩
  case icd =>
    have inside {off : Word} {n : Nat} (h : off.toNat + n ≤ 10) : off.toNat + n ≤ m.len := Nat.le_trans h hlen
    simp only [List.mem_cons, List.not_mem_nil, or_false, Prod.mk.injEq] at hline
    obtain ⟨rfl, rfl⟩ | ⟨rfl, rfl⟩ | ⟨rfl, rfl⟩ | ⟨rfl, rfl⟩ | ⟨rfl, rfl⟩ | ⟨rfl, rfl⟩ | ⟨rfl, rfl⟩ := hline
    · exact answers_fxBits hm rfl (inside (by decide)) (field_of_byte m 4 5 (by decide)) hp
    · exact answers_fxBits hm rfl (inside (by decide)) (field_of_byte m 4 4 (by decide)) hp
    · exact answers_fxBits hm rfl (inside (by decide)) (field_of_byte m 4 3 (by decide)) hp
    · exact answers_fxBits hm rfl (inside (by decide)) (field_of_group_low m 4 (k := 3) (by decide)) hp
    · exact answers_fxBits hm rfl (inside (by decide)) (field_of_byte m 6 6 (by decide)) hp
    · exact answers_fxBits hm rfl (inside (by decide)) (field_of_group_low m 6 (k := 6) (by decide)) hp
    · exact answers_fxBe hm (by decide) (inside (by decide)) (field_of_group m 8) hp
  case hsi =>
    have inside {off : Word} {n : Nat} (h : off.toNat + n ≤ 4) : off.toNat + n ≤ m.len := Nat.le_trans h hlen
    simp only [List.mem_cons, List.not_mem_nil, or_false, Prod.mk.injEq] at hline
    obtain ⟨rfl, rfl⟩ | ⟨rfl, rfl⟩ := hline
    · exact answers_fxBits hm rfl (inside (by decide)) (field_of_group_high m 2 7 (by decide)) hp
    · exact answers_fxBits hm rfl (inside (by decide)) (field_of_group_low m 2 (k := 7) (by decide)) hp
  case obt => exact answers_fxRev32 hm (Nat.le_trans (by decide) hlen) (ofNat_rev_read_four m 12) hp

end Sys2Proof.Machine
end
